-- ==== Sys2Proof/Word.lean ====
section
/-! DEFINITION. The widths of the fields a master sees on the wire (12.2, 12.3, 12.5). -/

namespace Sys2Proof

/-- One byte of a frame. -/
abbrev Byte := BitVec 8

/-- A field of two bytes. -/
abbrev Half := BitVec 16

/-- A field of four bytes. -/
abbrev Word := BitVec 32

end Sys2Proof
end

