-- ==== Sys2Proof/Syntax.lean ====
section
/-! DEFINITION. The commands of the PV-24: one constructor for each row of spec/opcode_table.json.
A request carries the port it arrives on and its fields at the widths of the table of 12.2, not yet judged:
a code outside an enumeration, an index out of range and a request sent to the wrong port are all terms of `Instr`,
because the rules say how each of them is answered. -/

namespace Sys2Proof

/-- The two heads. -/
inductive Head where
  | a
  | b
deriving DecidableEq, Repr

/-- The three command ports (chapter 11). -/
inductive Port where
  | cell
  | headA
  | headB
deriving DecidableEq, Repr

/-- The site fields of WRITE_SITE, in the order of 12.2. -/
structure SiteFields where
  x : Half
  y : Half
  toolCode : Byte
  firstPin : Half
  pinCount : Half
  contactLimit : Word
  seatDepth : Half
  seatTolerance : Half
deriving DecidableEq, Repr

/-- One pin entry of WRITE_PINS, 8 bytes (12.2). -/
structure PinEntry where
  live : Byte
  lane : Byte
  pinType : Byte
  holeClass : Byte
  entryOffset : Half
  row : Byte
  column : Byte
deriving DecidableEq, Repr

/-- One breakpoint of WRITE_PROFILE, 6 bytes (12.2). -/
structure PointEntry where
  depth : Half
  lower : Half
  upper : Half
deriving DecidableEq, Repr

/-- One lane entry of SET_TOOL, 8 bytes (12.2). -/
structure LaneEntry where
  gain : Word
  ceiling : Word
deriving DecidableEq, Repr

/-- A sample frame's fields, without its sync byte and its CRC (R96). -/
structure Sample where
  sequence : Byte
  encoderFault : Bool
  saturation : Half
  laneCount : Nat
  displacement : Int
  raws : List Int
deriving DecidableEq, Repr

/-- The commands: the requests of the three ports, the other transactions of a port, the sample frames, the expiries of the
part's timers, and the part's own events.

`head : Option Byte` of HEAD_STATUS, ABORT, RESUME and HEAD_CLEAR is the head field, which a Cell Port frame carries
and a Head Port frame does not (12.2). -/
inductive Instr where
  /-- The RESET input, or power-on. -/
  | hardReset
  | identify (p : Port)
  | fetchNotice (p : Port)
  | headStatus (p : Port) (head : Option Byte)
  | readRecord (p : Port) (site : Byte)
  | restart (p : Port)
  | setBlock (p : Port) (size : Byte)
  | endTransfer (p : Port)
  | mapEdit (p : Port)
  | mapActivate (p : Port)
  | writeSite (p : Port) (site : Byte) (f : SiteFields)
  | clearSite (p : Port) (site : Byte)
  | writePins (p : Port) (first : Half) (count : Byte) (entries : List PinEntry)
  | setKeepout (p : Port) (distance : Half)
  | lockSites (p : Port) (first count : Byte)
  | unlockSites (p : Port) (first count : Byte)
  | disposeSite (p : Port) (site : Byte)
  | writeProfile (p : Port) (pinType holeClass count : Byte) (seatForce : Half) (points : List PointEntry)
  | clearProfile (p : Port) (pinType holeClass : Byte)
  | copyBank (p : Port)
  | readProfile (p : Port) (role pinType holeClass : Byte)
  | swapBanks (p : Port)
  | setTool (p : Port) (head laneCount toolCode : Byte) (lanes : List LaneEntry)
  | setHead (p : Port) (head setting : Byte) (value : Word)
  | keepSettings (p : Port) (value : Byte)
  | setLine (p : Port) (head line value : Byte)
  | claim (p : Port) (site kind wait : Byte)
  | release (p : Port)
  | cancelWait (p : Port)
  | arm (p : Port)
  | start (p : Port)
  | abort (p : Port) (head : Option Byte)
  | resume (p : Port) (head : Option Byte)
  | headClear (p : Port) (head : Option Byte)
  | readPins (p : Port) (site : Byte) (first : Half) (count : Byte)
  | readSites (p : Port) (first count : Byte)
  | armWatch (p : Port) (slot site lane : Byte)
  | disarmWatch (p : Port) (slot : Byte)
  | readTrace (p : Port) (slot : Byte)
  /-- These bytes of a transaction, in which a frame arrives while a reply is pending or a transfer is open. -/
  | discardedFrame (p : Port) (bytes : List Byte)
  /-- These bytes of a transaction, which the master then ends before the frame's last byte. -/
  | incompleteFrame (p : Port) (bytes : List Byte)
  /-- These bytes of a transaction, in which a frame arrives that the port answers itself. -/
  | unknown (p : Port) (bytes : List Byte)
  /-- The master clocks out the whole pending reply. -/
  | replyRead (p : Port)
  /-- The bytes a Sensor Link received before it fell idle. -/
  | sampleFrame (h : Head) (bytes : List Byte)
  | silenceTimerExpiry (h : Head)
  | dwellTimerExpiry (h : Head)
  | markPulseEnd (h : Head)
  | compositionCompletion (h : Head)
  | reevaluation (h : Head)
  /-- The INTERLOCK input of the head takes this level; true is high. -/
  | interlockChange (h : Head) (level : Bool)
deriving DecidableEq, Repr

end Sys2Proof
end

