-- ==== Sys2Proof/Config.lean ====
section
/-! DEFINITION. The capacities of the part (R180) and the values the manual leaves open. -/

namespace Sys2Proof.Config

/-- The revision code IDENTIFY reports (R180). -/
def revision : Nat := 3

/-- Connector sites (R1). -/
def siteCount : Nat := 64

/-- Pin positions (R4). -/
def pinCount : Nat := 4096

/-- Lanes of a press tool (R23). -/
def laneLimit : Nat := 16

/-- Breakpoints of a profile (R61). -/
def pointLimit : Nat := 8

/-- Profile banks (R60). -/
def bankCount : Nat := 2

/-- Stations of an Envelope Table (R76). -/
def stationLimit : Nat := 128

/-- Notices a queue holds (R184). -/
def noticeLimit : Nat := 16

/-- Watch slots (R168). -/
def slotCount : Nat := 2

/-- Microseconds in a millisecond: durations are given in ms, and the model's clock counts µs. -/
def microsPerMilli : Nat := 1000

/-- The length of a MARK pulse in µs (R146). -/
def pulseMicros : Nat := 10

/-- Free value. The code of a watch slot state in the replies of ARM_WATCH and DISARM_WATCH: R169 names the field and
12.6 gives it no codes. The argument is the state's place in the table of R168. DESIGN CHOICE, log entry 3. -/
opaque watchStateCode : Nat → Byte

/-- Free value. What a four-byte signed field carries for a depth that does not fit in it, as the difference of
two displacements may not (12.4). DESIGN CHOICE, log entry 4. -/
opaque wideDepth : Int → Word

/-- Free value. Whether a frame on a head's Sensor Link was partly received when a hard reset came (R97): no command carries a
part of a sample frame. The number is that of the hard resets before it. DESIGN CHOICE, log entry 21. -/
opaque frameCut : Head → Nat → Bool

end Sys2Proof.Config
end

