-- ==== Sys2Proof/Decode.lean ====
section
/-! DEFINITION. Frames as bytes: byte order, the request table of 12.2 read and written, the CRC and the sample frame
(R98, R189), and `decodeTableWord`. The rows of the opcode table give no bits, so no word spells a command. -/

namespace Sys2Proof

/-- The command a word spells by the opcode table's bits: no row of the table gives any (log entry 5). -/
def decodeTableWord (_nbits _w : Nat) : Option Instr := none

/-! ## Byte order: every multi-byte field is little-endian (chapter 12) -/

/-- The bytes of a two-byte field. -/
def le16 (v : Half) : List Byte := [v.setWidth 8, (v >>> 8).setWidth 8]

/-- The bytes of a four-byte field. -/
def le32 (v : Word) : List Byte :=
  [v.setWidth 8, (v >>> 8).setWidth 8, (v >>> 16).setWidth 8, (v >>> 24).setWidth 8]

/-- A two-byte field from its bytes. -/
def ofLe16 (b0 b1 : Byte) : Half := b1 ++ b0

/-- A four-byte field from its bytes. -/
def ofLe32 (b0 b1 b2 b3 : Byte) : Word := b3 ++ b2 ++ b1 ++ b0

/-! ## The command frame (12.1, 12.2) -/

/-- The transaction byte of a write (R186). -/
def writeByte : Byte := 0xC1

/-- The transaction byte of a read (R186). -/
def readByte : Byte := 0xC2

/-- The request code of a request (12.2); 00 names no request and stands for the commands that are none. -/
def requestCode : Instr → Byte
  | .identify _ => 0x01
  | .fetchNotice _ => 0x02
  | .headStatus _ _ => 0x03
  | .readRecord _ _ => 0x04
  | .restart _ => 0x05
  | .setBlock _ _ => 0x06
  | .endTransfer _ => 0x07
  | .mapEdit _ => 0x10
  | .mapActivate _ => 0x11
  | .writeSite _ _ _ => 0x12
  | .clearSite _ _ => 0x13
  | .writePins _ _ _ _ => 0x14
  | .setKeepout _ _ => 0x15
  | .lockSites _ _ _ => 0x16
  | .unlockSites _ _ _ => 0x17
  | .disposeSite _ _ => 0x18
  | .writeProfile _ _ _ _ _ _ => 0x20
  | .clearProfile _ _ _ => 0x21
  | .copyBank _ => 0x22
  | .readProfile _ _ _ _ => 0x23
  | .swapBanks _ => 0x24
  | .setTool _ _ _ _ _ => 0x28
  | .setHead _ _ _ _ => 0x29
  | .keepSettings _ _ => 0x2A
  | .setLine _ _ _ _ => 0x2B
  | .claim _ _ _ _ => 0x30
  | .release _ => 0x31
  | .cancelWait _ => 0x32
  | .arm _ => 0x33
  | .start _ => 0x34
  | .abort _ _ => 0x35
  | .resume _ _ => 0x36
  | .headClear _ _ => 0x37
  | .readPins _ _ _ _ => 0x40
  | .readSites _ _ _ => 0x41
  | .armWatch _ _ _ _ => 0x48
  | .disarmWatch _ _ => 0x49
  | .readTrace _ _ => 0x4A
  | .hardReset => 0x00
  | .discardedFrame _ _ => 0x00
  | .incompleteFrame _ _ => 0x00
  | .unknown _ _ => 0x00
  | .replyRead _ => 0x00
  | .sampleFrame _ _ => 0x00
  | .silenceTimerExpiry _ => 0x00
  | .dwellTimerExpiry _ => 0x00
  | .markPulseEnd _ => 0x00
  | .compositionCompletion _ => 0x00
  | .reevaluation _ => 0x00
  | .interlockChange _ _ => 0x00

/-- The codes the Cell Port takes (R177). -/
def cellCodes : List Byte :=
  [0x01, 0x02, 0x03, 0x04, 0x05, 0x06, 0x07, 0x10, 0x11, 0x12, 0x13, 0x14, 0x15, 0x16, 0x17, 0x18,
   0x20, 0x21, 0x22, 0x23, 0x24, 0x28, 0x29, 0x2A, 0x2B, 0x35, 0x36, 0x37, 0x40, 0x41, 0x48, 0x49, 0x4A]

/-- The codes a Head Port takes (R177). -/
def headCodes : List Byte := [0x01, 0x02, 0x03, 0x04, 0x30, 0x31, 0x32, 0x33, 0x34, 0x35, 0x36, 0x37]

/-- Whether a code names a request of the port's list (R177). -/
def codeListed (p : Port) (code : Byte) : Bool :=
  match p with
  | .cell => cellCodes.contains code
  | .headA => headCodes.contains code
  | .headB => headCodes.contains code

/-- The bytes of a pin entry (12.2). -/
def PinEntry.bytes (e : PinEntry) : List Byte :=
  [e.live, e.lane, e.pinType, e.holeClass] ++ le16 e.entryOffset ++ [e.row, e.column]

/-- The bytes of a breakpoint (12.2). -/
def PointEntry.bytes (e : PointEntry) : List Byte := le16 e.depth ++ le16 e.lower ++ le16 e.upper

/-- The bytes of a lane entry (12.2). -/
def LaneEntry.bytes (e : LaneEntry) : List Byte := le32 e.gain ++ le32 e.ceiling

/-- The bytes of WRITE_SITE's fields after the site index (12.2). -/
def SiteFields.bytes (f : SiteFields) : List Byte :=
  le16 f.x ++ le16 f.y ++ [f.toolCode] ++ le16 f.firstPin ++ le16 f.pinCount ++ le32 f.contactLimit ++
    le16 f.seatDepth ++ le16 f.seatTolerance

/-- The field bytes of a request, in the order of the table of 12.2. -/
def fieldBytes : Instr → List Byte
  | .identify _ => []
  | .fetchNotice _ => []
  | .headStatus _ head => head.toList
  | .readRecord _ site => [site]
  | .restart _ => []
  | .setBlock _ size => [size]
  | .endTransfer _ => []
  | .mapEdit _ => []
  | .mapActivate _ => []
  | .writeSite _ site f => site :: f.bytes
  | .clearSite _ site => [site]
  | .writePins _ first count entries => le16 first ++ [count] ++ entries.flatMap PinEntry.bytes
  | .setKeepout _ distance => le16 distance
  | .lockSites _ first count => [first, count]
  | .unlockSites _ first count => [first, count]
  | .disposeSite _ site => [site]
  | .writeProfile _ pinType holeClass count seatForce points =>
    [pinType, holeClass, count] ++ le16 seatForce ++ points.flatMap PointEntry.bytes
  | .clearProfile _ pinType holeClass => [pinType, holeClass]
  | .copyBank _ => []
  | .readProfile _ role pinType holeClass => [role, pinType, holeClass]
  | .swapBanks _ => []
  | .setTool _ head laneCount toolCode lanes => [head, laneCount, toolCode] ++ lanes.flatMap LaneEntry.bytes
  | .setHead _ head setting value => [head, setting] ++ le32 value
  | .keepSettings _ value => [value]
  | .setLine _ head line value => [head, line, value]
  | .claim _ site kind wait => [site, kind, wait]
  | .release _ => []
  | .cancelWait _ => []
  | .arm _ => []
  | .start _ => []
  | .abort _ head => head.toList
  | .resume _ head => head.toList
  | .headClear _ head => head.toList
  | .readPins _ site first count => [site] ++ le16 first ++ [count]
  | .readSites _ first count => [first, count]
  | .armWatch _ slot site lane => [slot, site, lane]
  | .disarmWatch _ slot => [slot]
  | .readTrace _ slot => [slot]
  | .hardReset => []
  | .discardedFrame _ _ => []
  | .incompleteFrame _ _ => []
  | .unknown _ _ => []
  | .replyRead _ => []
  | .sampleFrame _ _ => []
  | .silenceTimerExpiry _ => []
  | .dwellTimerExpiry _ => []
  | .markPulseEnd _ => []
  | .compositionCompletion _ => []
  | .reevaluation _ => []
  | .interlockChange _ _ => []

/-- The number of bytes of a request's frame, byte 0 included (12.2). -/
def frameLength (i : Instr) : Nat := 4 + (fieldBytes i).length

/-- The command frame of a request (12.2). -/
def encodeFrame (i : Instr) : List Byte :=
  [writeByte] ++ le16 (BitVec.ofNat 16 (frameLength i)) ++ [requestCode i] ++ fieldBytes i

/-- Whether a request's length agrees with the length its fields give, on this port: a variable list has as many
entries as its count says, and the head field is carried on the Cell Port alone (R177, 12.2). -/
def lengthAgrees (p : Port) : Instr → Bool
  | .writePins _ _ count entries => entries.length == count.toNat
  | .writeProfile _ _ _ count _ points => points.length == count.toNat
  | .setTool _ _ laneCount _ lanes => lanes.length == laneCount.toNat
  | .headStatus _ head => head.isSome == (p == .cell)
  | .abort _ head => head.isSome == (p == .cell)
  | .resume _ head => head.isSome == (p == .cell)
  | .headClear _ head => head.isSome == (p == .cell)
  | _ => true

/-- The pin entries that a list of bytes holds, 8 bytes each. -/
def parsePins : List Byte → Option (List PinEntry)
  | [] => some []
  | live :: lane :: pinType :: holeClass :: o0 :: o1 :: row :: column :: rest =>
    (parsePins rest).map (fun es => ⟨live, lane, pinType, holeClass, ofLe16 o0 o1, row, column⟩ :: es)
  | _ => none

/-- The breakpoints that a list of bytes holds, 6 bytes each. -/
def parsePoints : List Byte → Option (List PointEntry)
  | [] => some []
  | d0 :: d1 :: l0 :: l1 :: u0 :: u1 :: rest =>
    (parsePoints rest).map (fun es => ⟨ofLe16 d0 d1, ofLe16 l0 l1, ofLe16 u0 u1⟩ :: es)
  | _ => none

/-- The lane entries that a list of bytes holds, 8 bytes each. -/
def parseLanes : List Byte → Option (List LaneEntry)
  | [] => some []
  | g0 :: g1 :: g2 :: g3 :: c0 :: c1 :: c2 :: c3 :: rest =>
    (parseLanes rest).map (fun es => ⟨ofLe32 g0 g1 g2 g3, ofLe32 c0 c1 c2 c3⟩ :: es)
  | _ => none

/-- A request of no field. -/
def parseNone (fields : List Byte) (i : Instr) : Option Instr :=
  match fields with
  | [] => some i
  | _ :: _ => none

/-- A request of one byte. -/
def parseOne (fields : List Byte) (f : Byte → Instr) : Option Instr :=
  match fields with
  | [b] => some (f b)
  | _ => none

/-- A request of two bytes. -/
def parseTwo (fields : List Byte) (f : Byte → Byte → Instr) : Option Instr :=
  match fields with
  | [b0, b1] => some (f b0 b1)
  | _ => none

/-- A request of three bytes. -/
def parseThree (fields : List Byte) (f : Byte → Byte → Byte → Instr) : Option Instr :=
  match fields with
  | [b0, b1, b2] => some (f b0 b1 b2)
  | _ => none

/-- A request whose only field is the head, carried on the Cell Port alone. -/
def parseHead (fields : List Byte) (f : Option Byte → Instr) : Option Instr :=
  match fields with
  | [] => some (f none)
  | [b] => some (f (some b))
  | _ => none

/-- The site index and fields of WRITE_SITE. -/
def parseSite (fields : List Byte) (f : Byte → SiteFields → Instr) : Option Instr :=
  match fields with
  | [site, x0, x1, y0, y1, tool, f0, f1, n0, n1, c0, c1, c2, c3, d0, d1, t0, t1] =>
    some (f site ⟨ofLe16 x0 x1, ofLe16 y0 y1, tool, ofLe16 f0 f1, ofLe16 n0 n1, ofLe32 c0 c1 c2 c3, ofLe16 d0 d1,
      ofLe16 t0 t1⟩)
  | _ => none

/-- The fields of WRITE_PINS. -/
def parseWritePins (fields : List Byte) (f : Half → Byte → List PinEntry → Instr) : Option Instr :=
  match fields with
  | f0 :: f1 :: count :: rest => (parsePins rest).map (f (ofLe16 f0 f1) count)
  | _ => none

/-- The fields of WRITE_PROFILE. -/
def parseWriteProfile (fields : List Byte) (f : Byte → Byte → Byte → Half → List PointEntry → Instr) :
    Option Instr :=
  match fields with
  | t :: c :: count :: s0 :: s1 :: rest => (parsePoints rest).map (f t c count (ofLe16 s0 s1))
  | _ => none

/-- The fields of SET_TOOL. -/
def parseSetTool (fields : List Byte) (f : Byte → Byte → Byte → List LaneEntry → Instr) : Option Instr :=
  match fields with
  | head :: count :: tool :: rest => (parseLanes rest).map (f head count tool)
  | _ => none

/-- The fields of SET_HEAD. -/
def parseSetHead (fields : List Byte) (f : Byte → Byte → Word → Instr) : Option Instr :=
  match fields with
  | [head, setting, v0, v1, v2, v3] => some (f head setting (ofLe32 v0 v1 v2 v3))
  | _ => none

/-- The fields of READ_PINS. -/
def parseReadPins (fields : List Byte) (f : Byte → Half → Byte → Instr) : Option Instr :=
  match fields with
  | [site, p0, p1, count] => some (f site (ofLe16 p0 p1) count)
  | _ => none

/-- The request that a code and its field bytes spell on a port (12.2); none where the code names no request of any
port or the bytes do not fill its fields. Whether the port takes it, and whether a list has as many entries as
its count says, is judged by R177. -/
def parseRequest (p : Port) (code : Byte) (fields : List Byte) : Option Instr :=
  match code.toNat with
  | 0x01 => parseNone fields (.identify p)
  | 0x02 => parseNone fields (.fetchNotice p)
  | 0x03 => parseHead fields (.headStatus p)
  | 0x04 => parseOne fields (.readRecord p)
  | 0x05 => parseNone fields (.restart p)
  | 0x06 => parseOne fields (.setBlock p)
  | 0x07 => parseNone fields (.endTransfer p)
  | 0x10 => parseNone fields (.mapEdit p)
  | 0x11 => parseNone fields (.mapActivate p)
  | 0x12 => parseSite fields (.writeSite p)
  | 0x13 => parseOne fields (.clearSite p)
  | 0x14 => parseWritePins fields (.writePins p)
  | 0x15 => parseTwo fields (fun b0 b1 => .setKeepout p (ofLe16 b0 b1))
  | 0x16 => parseTwo fields (.lockSites p)
  | 0x17 => parseTwo fields (.unlockSites p)
  | 0x18 => parseOne fields (.disposeSite p)
  | 0x20 => parseWriteProfile fields (.writeProfile p)
  | 0x21 => parseTwo fields (.clearProfile p)
  | 0x22 => parseNone fields (.copyBank p)
  | 0x23 => parseThree fields (.readProfile p)
  | 0x24 => parseNone fields (.swapBanks p)
  | 0x28 => parseSetTool fields (.setTool p)
  | 0x29 => parseSetHead fields (.setHead p)
  | 0x2A => parseOne fields (.keepSettings p)
  | 0x2B => parseThree fields (.setLine p)
  | 0x30 => parseThree fields (.claim p)
  | 0x31 => parseNone fields (.release p)
  | 0x32 => parseNone fields (.cancelWait p)
  | 0x33 => parseNone fields (.arm p)
  | 0x34 => parseNone fields (.start p)
  | 0x35 => parseHead fields (.abort p)
  | 0x36 => parseHead fields (.resume p)
  | 0x37 => parseHead fields (.headClear p)
  | 0x40 => parseReadPins fields (.readPins p)
  | 0x41 => parseTwo fields (.readSites p)
  | 0x48 => parseThree fields (.armWatch p)
  | 0x49 => parseOne fields (.disarmWatch p)
  | 0x4A => parseOne fields (.readTrace p)
  | _ => none

/-- What the bytes of a transaction are (R186). -/
inductive Transaction where
  /-- No transaction of the port: an unlisted transaction byte, or no byte at all. -/
  | nothing
  /-- A read of the pending reply, in which the master clocks out so many bytes after the transaction byte. -/
  | read (clocked : Nat)
  /-- A write ended before its frame's last byte. -/
  | incomplete
  /-- A frame whose length field is below 4 or above 256. -/
  | badLength
  /-- A frame with its code and its field bytes; the bytes after its length are taken as nothing. -/
  | frame (code : Byte) (fields : List Byte)
deriving DecidableEq, Repr

/-- A write transaction after its transaction byte: the length field, the request code and the fields (12.2). -/
def readWrite (rest : List Byte) : Transaction :=
  match rest with
  | l0 :: l1 :: body =>
    if (ofLe16 l0 l1).toNat < 4 ∨ 256 < (ofLe16 l0 l1).toNat then .badLength
    else if body.length < (ofLe16 l0 l1).toNat - 3 then .incomplete
    else
      match body.take ((ofLe16 l0 l1).toNat - 3) with
      | code :: fields => .frame code fields
      | [] => .incomplete
  | _ => .incomplete

/-- What the port makes of the bytes a master clocks in (R186). -/
def readTransaction (bytes : List Byte) : Transaction :=
  match bytes with
  | [] => .nothing
  | t :: rest =>
    if t = writeByte then readWrite rest
    else if t = readByte then .read rest.length
    else .nothing

/-! ## The sample frame (12.5) -/

/-- The sync byte (12.5). -/
def syncByte : Byte := 0xB6

/-- One shift of the CRC register, with the low bits of the polynomial where a 1 is shifted out (R98). -/
def crcShift (r : Byte) : Byte := if r.msb then (r <<< 1) ^^^ 0x07 else r <<< 1

/-- The CRC register after one more byte (R98). -/
def crcByte (r b : Byte) : Byte := crcShift^[8] (r ^^^ b)

/-- The eight-bit CRC of R98. -/
def crc (bytes : List Byte) : Byte := bytes.foldl crcByte 0

/-- The raw values in a list of bytes, two bytes each, signed (12.5). -/
def parseRaws : List Byte → List Int
  | b0 :: b1 :: rest => (ofLe16 b0 b1).toInt :: parseRaws rest
  | _ => []

/-- Framing and CRC (R98, R189): the frame's fields when both pass, none for a frame that is discarded. -/
def decodeSample (bytes : List Byte) : Option Sample :=
  match bytes with
  | sync :: seq :: status :: s0 :: s1 :: n :: d0 :: d1 :: d2 :: d3 :: rest =>
    if sync ≠ syncByte ∨ 16 < n.toNat ∨ bytes.length ≠ 11 + 2 * n.toNat then none
    else if crc (bytes.tail.take (9 + 2 * n.toNat)) ≠ rest.getLastD 0 then none
    else
      some { sequence := seq, encoderFault := status.getLsbD 0, saturation := ofLe16 s0 s1, laneCount := n.toNat,
             displacement := (ofLe32 d0 d1 d2 d3).toInt, raws := parseRaws (rest.take (2 * n.toNat)) }
  | _ => none

/-- The bytes of a sample frame between its sync byte and its CRC (12.5). -/
def sampleBody (f : Sample) : List Byte :=
  [f.sequence, if f.encoderFault then 1 else 0] ++ le16 f.saturation ++ [BitVec.ofNat 8 f.laneCount] ++
    le32 (BitVec.ofInt 32 f.displacement) ++ f.raws.flatMap (fun r => le16 (BitVec.ofInt 16 r))

/-- The sample frame a sensor board sends (12.5). -/
def encodeSample (f : Sample) : List Byte := [syncByte] ++ sampleBody f ++ [crc (sampleBody f)]

/-- The field values a sample frame can carry (R96). -/
abbrev Sample.wellFormed (f : Sample) : Prop :=
  f.laneCount ≤ 16 ∧ f.raws.length = f.laneCount ∧ (∀ r ∈ f.raws, -32768 ≤ r ∧ r ≤ 32767) ∧
    -2147483648 ≤ f.displacement ∧ f.displacement ≤ 2147483647

end Sys2Proof
end

