-- ==== Sys2Proof/Machine/State.lean ====
section
/-! DEFINITION. The state of the PV-24 as plain data, its value after a hard reset, and the reasons a step can stop.
Tables with one entry for each index are kept sparse: an index that is not listed holds the table's reset value.
Times are in µs. -/

namespace Sys2Proof.Machine

/-- No command of this part stops the machine: every rule of the manual ends in a reply, a notice or no effect, so
no meaning raises a fault. The one constructor is raised by no command; safe. -/
inductive Fault where
  /-- Raised by no command: the manual describes nothing that stops the part. Safe. -/
  | halted
deriving DecidableEq, Repr

/-- The refusals of the model. -/
inductive Refusal where
  /-- Raised by exec for a command without a meaning; no command is without one. Safe. -/
  | notModelled (mnemonic : String)
deriving DecidableEq, Repr

/-- A table indexed by natural numbers: rising keys, and no entry equal to the table's reset value. -/
abbrev Table (α : Type) : Type := List (Nat × α)

/-! ## Enumerations (12.6) -/

inductive MapMode where
  | edit
  | active
deriving DecidableEq, Repr

inductive SiteState where
  | unused
  | pending
  | claimed
  | pressing
  | seated
  | rejected
  | partialIn
deriving DecidableEq, Repr

/-- The two states a site may return to when a claim is given up (R1, R2). -/
inductive PriorState where
  | pending
  | seated
deriving DecidableEq, Repr

inductive Kind where
  | press
  | verify
deriving DecidableEq, Repr

inductive EngineState where
  | idle
  | composing
  | armed
  | approach
  | engage
  | held
  | dwell
  | retract
  | faulted
deriving DecidableEq, Repr

inductive StrokeOutcome where
  | noOutcome
  | seatedPass
  | windowFail
  | earlySeat
  | notSeated
  | noContact
  | overforce
  | sensorFault
  | linkLost
  | aborted
  | verifyPass
  | verifyFail
deriving DecidableEq, Repr

inductive PinVerdict where
  | noVerdict
  | pass
  | laneFail
  | notSeated
  | overforce
  | partialIn
  | notPressed
  | empty
deriving DecidableEq, Repr

inductive LaneVerdict where
  | pass
  | fail
  | unused
deriving DecidableEq, Repr

inductive NoticeKind where
  | strokeFault
  | interlockHold
  | armed
  | armFailed
  | strokeVerdict
  | strokeDone
  | claimGranted
  | claimRefused
  | interlockResumed
  | swapDone
  | traceFull
deriving DecidableEq, Repr

inductive Level where
  | normal
  | urgent
deriving DecidableEq, Repr

inductive ArmFailure where
  | stationRange
  | toolInvalid
  | profileMissing
  | aborted
deriving DecidableEq, Repr

inductive MapCheck where
  | pinRange
  | pinCount
  | overlap
  | noLivePin
deriving DecidableEq, Repr

inductive ProfileFault where
  | index
  | count
  | depthRange
  | depthOrder
  | forceRange
  | boundsOrder
  | seatForce
deriving DecidableEq, Repr

inductive Bank where
  | zero
  | one
deriving DecidableEq, Repr

inductive BankRole where
  | active
  | shadow
deriving DecidableEq, Repr

inductive PermitOverride where
  | engine
  | forceOff
  | forceOn
deriving DecidableEq, Repr

inductive MarkSource where
  | off
  | contact
  | station
  | excursion
  | seated
deriving DecidableEq, Repr

inductive FailAction where
  | continue
  | stop
deriving DecidableEq, Repr

inductive InterlockAction where
  | holdLevel
  | holdLatch
  | abort
deriving DecidableEq, Repr

inductive Polarity where
  | activeHigh
  | activeLow
deriving DecidableEq, Repr

inductive WatchState where
  | empty
  | armed
  | filling
  | full
deriving DecidableEq, Repr

/-- The status codes of a reply (R177, 12.3), in the order of their codes. -/
inductive Status where
  | ok
  | okClamped
  | accepted
  | pending
  | waiting
  | empty
  | busy
  | refusedState
  | mapState
  | mapInUse
  | invalidMap
  | range
  | locked
  | taken
  | conflict
  | holdsClaim
  | noClaim
  | notWaiting
  | toolMismatch
  | stopped
  | interlock
  | lineForced
  | swapBusy
  | recordChanged
  | frameError
  | unknown
deriving DecidableEq, Repr

/-! ## The Board Map (chapter 1) -/

/-- A site record (R1). -/
structure Site where
  state : SiteState
  x : Nat
  y : Nat
  toolCode : Nat
  firstPin : Nat
  pinCount : Nat
  contactLimit : Int
  seatDepth : Nat
  seatTolerance : Nat
  holder : Option Head
  prior : Option PriorState
deriving DecidableEq, Repr

/-- The values an undefined site holds (R1). -/
def Site.undefined : Site :=
  { state := .unused, x := 0, y := 0, toolCode := 0, firstPin := 0, pinCount := 0, contactLimit := 0,
    seatDepth := 100, seatTolerance := 0, holder := none, prior := none }

/-- A pin record (R4). -/
structure Pin where
  live : Bool
  lane : Nat
  pinType : Nat
  holeClass : Nat
  entryOffset : Nat
  row : Nat
  column : Nat
deriving DecidableEq, Repr

/-- A pin record after hard reset (R20). -/
def Pin.blank : Pin :=
  { live := false, lane := 0, pinType := 0, holeClass := 0, entryOffset := 0, row := 0, column := 0 }

structure BoardMap where
  mode : MapMode
  generation : Half
  keepOut : Nat
  sites : Table Site
  pins : Table Pin
  locks : Table Bool
deriving DecidableEq, Repr

/-! ## The Profile Library (chapter 4) -/

/-- One breakpoint of a profile (R61). -/
structure Breakpoint where
  depth : Nat
  lower : Nat
  upper : Nat
deriving DecidableEq, Repr

/-- A present profile (R61). An absent one is `none` in its bank. -/
structure Profile where
  points : List Breakpoint
  seatForce : Nat
deriving DecidableEq, Repr

/-- The two banks and what is held beside them (R60). A profile's place in a bank is pin type × 8 + hole class. -/
structure Library where
  bank0 : Table (Option Profile)
  bank1 : Table (Option Profile)
  active : Bank
  generation : Half
  swapPending : Bool
deriving DecidableEq, Repr

/-! ## The Tool and Settings Store (chapter 2) -/

/-- The gain and the lane ceiling of an installed lane (R23). -/
structure LaneSetup where
  gain : Nat
  ceiling : Nat
deriving DecidableEq, Repr

/-- A tool description (R23). The lane count is kept as its own field, as the rule names it. -/
structure Tool where
  laneCount : Nat
  toolCode : Nat
  lanes : List LaneSetup
deriving DecidableEq, Repr

/-- The eleven settings that an accepted ARM copies (R30). -/
structure Snapshot where
  stationPitch : Nat
  guard : Nat
  excursionAllowance : Nat
  failAction : FailAction
  contactThreshold : Nat
  dwell : Nat
  retractClearance : Nat
  linkTimeout : Nat
  verifyPercent : Nat
  verifyTravel : Nat
  headCeiling : Nat
deriving DecidableEq, Repr

/-- The working settings of a head (R27): the eleven of R30 and the two interlock settings. -/
structure Settings where
  judged : Snapshot
  interlockAction : InterlockAction
  interlockPolarity : Polarity
deriving DecidableEq, Repr

/-- The defaults of R27. -/
def Settings.default : Settings :=
  { judged :=
      { stationPitch := 50, guard := 40, excursionAllowance := 2, failAction := .stop, contactThreshold := 5000,
        dwell := 100, retractClearance := 2000, linkTimeout := 5, verifyPercent := 80, verifyTravel := 100,
        headCeiling := 268435455 },
    interlockAction := .holdLatch, interlockPolarity := .activeLow }

/-! ## The Claim Arbiter (chapter 3) -/

/-- A claim record (R37). -/
structure Claim where
  site : Nat
  kind : Kind
deriving DecidableEq, Repr

/-- A waiting-claim record (R38). -/
structure Wait where
  site : Nat
  kind : Kind
  blocking : Nat
  due : Bool
deriving DecidableEq, Repr

/-! ## The Envelope Table (chapter 5) and the stroke context (chapter 7) -/

/-- A station entry (R76). -/
structure Bounds where
  lower : Nat
  upper : Nat
deriving DecidableEq, Repr

/-- A lane entry (R76). Its lane is its place in the list. -/
structure EnvelopeLane where
  used : Bool
  bounds : Option (List Bounds)
deriving DecidableEq, Repr

/-- A complete Envelope Table (R76). Its site and kind are those of the job it was composed for. -/
structure Envelope where
  stationCount : Option Nat
  lanes : List EnvelopeLane
  seatTotal : Nat
  verifyThreshold : Option Nat
deriving DecidableEq, Repr

/-- What an accepted ARM fixes until the engine returns to IDLE: the site and kind of the table (R79), the settings
snapshot (R30) and the copied bank generation (R62). -/
structure Job where
  site : Nat
  kind : Kind
  settings : Snapshot
  bankGeneration : Half
deriving DecidableEq, Repr

/-- The running judgement of a lane (R111). -/
structure LaneTally where
  peak : Nat
  excursions : Nat
  first : Option Nat
deriving DecidableEq, Repr

/-- The fields of the stroke context that START sets (R111, R112). `remainingDwell` is in µs. -/
structure Stroke where
  tareSums : List Int
  tareCount : Nat
  tareZeros : Option (List Int)
  startDisplacement : Option Int
  contact : Option Int
  stationIndex : Nat
  coarse : Nat
  lanes : List LaneTally
  peakTotal : Nat
  maxDepth : Option Int
  seatedDepth : Option Int
  remainingDwell : Nat
  outcome : Option StrokeOutcome
  offending : List Nat
  faultLane : Option Nat
  faultStation : Option Nat
  retractTarget : Option Int
deriving DecidableEq, Repr

/-- The states a stroke is judged in, which are also the return states of HELD (R111). -/
inductive Live where
  | approach
  | engage
  | dwell
deriving DecidableEq, Repr

/-- The engine states of a stroke. HELD carries its return state. -/
inductive Phase where
  | approach
  | engage
  | held (ret : Live)
  | dwell
  | retract
  | faulted
deriving DecidableEq, Repr

/-- A Stroke Engine with the context, and the Envelope Table, that each of its states holds: both are absent in IDLE, the
table is building in COMPOSING and complete from ARMED on (R76, R111). -/
inductive Engine where
  | idle
  | composing (job : Job)
  | armed (job : Job) (env : Envelope)
  | stroke (phase : Phase) (job : Job) (env : Envelope) (ctx : Stroke)
deriving DecidableEq, Repr

/-! ## The Sensor Link Receiver (chapter 6) and the Head Line Unit (chapter 8) -/

/-- The receiver of a head (R97). `lastFrame` holds the last accepted sequence with the last-frame copy: both come and go
together. `sinceAccepted` is the time since acceptance, `none` while it is unbounded. `silence` is the time the silence
timer has left, `none` while it is stopped. `awaitIdle` says that a frame was partly received when a hard reset came: the
receiver begins after the link next falls idle. `resets` is the model's own count of the hard resets, to which the free
value of log entry 21 is applied. -/
structure Link where
  lastFrame : Option Sample
  sinceAccepted : Option Nat
  silence : Option Nat
  awaitIdle : Bool
  resets : Nat
deriving DecidableEq, Repr

/-- The Head Line Unit of a head (R140) with the level of its INTERLOCK input pin. `pulse` is the time a MARK pulse has
left. -/
structure Lines where
  override : PermitOverride
  stop : Bool
  markSource : MarkSource
  pulse : Option Nat
  interlockHigh : Bool
deriving DecidableEq, Repr

/-- Everything the part holds per head. -/
structure HeadUnit where
  tool : Tool
  settings : Settings
  claim : Option Claim
  waiting : Option Wait
  engine : Engine
  link : Link
  lines : Lines
deriving DecidableEq, Repr

/-! ## The Record Store (chapter 9) and the Watch Unit (chapter 10) -/

/-- A lane summary of a Press Record (R157). Its lane is its place in the list. -/
structure LaneSummary where
  used : Bool
  peak : Nat
  excursions : Nat
  first : Option Nat
  verdict : LaneVerdict
deriving DecidableEq, Repr

/-- A Press Record (R156). Its site is its place in the Record Store. -/
structure PressRecord where
  head : Option Head
  kind : Option Kind
  outcome : StrokeOutcome
  bankGeneration : Half
  mapGeneration : Half
  contact : Option Int
  seatedDepth : Option Int
  peakTotal : Nat
  maxDepth : Option Int
  stations : Nat
  coarse : Nat
  faultLane : Option Nat
  faultStation : Option Nat
  lanes : List LaneSummary
deriving DecidableEq, Repr

/-- The empty form of a Press Record (R155). -/
def PressRecord.emptyForm : PressRecord :=
  { head := none, kind := none, outcome := .noOutcome, bankGeneration := 0, mapGeneration := 0, contact := none,
    seatedDepth := none, peakTotal := 0, maxDepth := none, stations := 0, coarse := 0, faultLane := none,
    faultStation := none, lanes := [] }

/-- The match site of a watch slot (R168). -/
inductive MatchSite where
  | any
  | site (i : Nat)
deriving DecidableEq, Repr

/-- A trace entry (R168). -/
structure TraceEntry where
  station : Nat
  displacement : Int
  measured : Nat
  lower : Nat
  upper : Nat
deriving DecidableEq, Repr

/-- The stroke a slot fills from (R168). -/
structure WatchSource where
  head : Head
  site : Nat
deriving DecidableEq, Repr

/-- A watch slot (R168). -/
structure WatchSlot where
  state : WatchState
  matchSite : Option MatchSite
  matchLane : Option Nat
  source : Option WatchSource
  outcome : Option StrokeOutcome
  trace : List TraceEntry
deriving DecidableEq, Repr

/-- An EMPTY watch slot (R168). -/
def WatchSlot.clear : WatchSlot :=
  { state := .empty, matchSite := none, matchLane := none, source := none, outcome := none, trace := [] }

/-! ## The command ports and the notice queues (chapter 11) -/

/-- A notice (R183). Its level follows from its kind. `reason` is the code of the outcome or reason field (12.4). -/
structure Notice where
  kind : NoticeKind
  head : Option Head
  site : Option Nat
  reason : Option Nat
  station : Option Nat
  lane : Option Nat
deriving DecidableEq, Repr

/-- A notice queue with its overrun mark (R184). -/
structure NoticeQueue where
  items : List Notice
  overrun : Bool
deriving DecidableEq, Repr

/-- A reply frame formed and not yet read (12.3); its DISCARDED flag is carried in as it goes out (R175). -/
structure Reply where
  code : Byte
  status : Status
  more : Bool
  payload : List Byte
deriving DecidableEq, Repr

/-- The request that opened a block transfer (R174), with the fields that its blocks repeat. -/
inductive TransferKind where
  | pins (site firstPosition : Nat)
  | sites (firstIndex : Nat)
  | trace (slot : Nat)
deriving DecidableEq, Repr

/-- An open transfer (R174): the request that opened it, its count, the entries formed so far (which is the position of the
next entry to form), those of them that were formed before the pending block, and whether a record write has
overtaken it (R165). -/
structure Transfer where
  kind : TransferKind
  count : Nat
  formed : Nat
  before : Nat
  overtaken : Bool
deriving DecidableEq, Repr

/-- What a port has of a transaction that its master is still making (R174, R182). -/
inductive Reception where
  /-- The bytes received so far, the transaction byte first. -/
  | bytes (got : List Byte)
  /-- RESTART has ended what the port takes of the transaction: the rest of a write is taken as nothing, the rest of a read
  (`read`) clocks out 00. -/
  | lapsed (read : Bool)
deriving DecidableEq, Repr

/-- A Port Interface and its Notice Queue (R174, R184). `wire` is the model's own field: the bytes that the port's last
read transaction clocked out. -/
structure PortUnit where
  reply : Option Reply
  transfer : Option Transfer
  discarded : Bool
  reception : Option Reception
  queue : NoticeQueue
  wire : List Byte
deriving DecidableEq, Repr

/-! ## The whole part -/

/-- The state of the part. `pending` is the queue of the commands that wait, first in, first out. -/
structure State where
  pending : List Instr
  map : BoardMap
  library : Library
  keep : Bool
  headA : HeadUnit
  headB : HeadUnit
  records : Table PressRecord
  verdicts : Table PinVerdict
  slot0 : WatchSlot
  slot1 : WatchSlot
  cell : PortUnit
  portA : PortUnit
  portB : PortUnit
  blockSize : Nat
deriving DecidableEq, Repr

/-! ## Hard reset -/

/-- The Board Map after hard reset (R20). -/
def BoardMap.reset : BoardMap :=
  { mode := .edit, generation := 0, keepOut := 0, sites := [], pins := [], locks := [] }

/-- The Profile Library after hard reset (R74). -/
def Library.reset : Library :=
  { bank0 := [], bank1 := [], active := .zero, generation := 0, swapPending := false }

/-- A head's tool description after hard reset (R26). -/
def Tool.reset : Tool := { laneCount := 0, toolCode := 0, lanes := [] }

/-- A receiver after hard reset, on a link that is idle (R97; log entry 21). -/
def Link.reset : Link := { lastFrame := none, sinceAccepted := none, silence := none, awaitIdle := false, resets := 0 }

/-- A Head Line Unit after hard reset (R140). The level of the input pin is the model's choice: high, which the default
polarity reads as inactive. DESIGN CHOICE, log entry 1. -/
def Lines.reset : Lines :=
  { override := .engine, stop := true, markSource := .off, pulse := none, interlockHigh := true }

/-- A head after hard reset (R26, R34, R37, R38, R77, R97, R111, R140). -/
def HeadUnit.reset : HeadUnit :=
  { tool := Tool.reset, settings := Settings.default, claim := none, waiting := none, engine := .idle,
    link := Link.reset, lines := Lines.reset }

/-- A port after hard reset (R174, R184). -/
def PortUnit.reset : PortUnit :=
  { reply := none, transfer := none, discarded := false, reception := none,
    queue := { items := [], overrun := false }, wire := [] }

/-- The machine right after reset (R20, R26, R34, R74, R97, R140, R155, R168, R174, R184), with no command waiting. -/
def State.reset : State :=
  { pending := [], map := BoardMap.reset, library := Library.reset, keep := false,
    headA := HeadUnit.reset, headB := HeadUnit.reset, records := [], verdicts := [],
    slot0 := WatchSlot.clear, slot1 := WatchSlot.clear,
    cell := PortUnit.reset, portA := PortUnit.reset, portB := PortUnit.reset, blockSize := 8 }

end Sys2Proof.Machine
end

