-- ==== Sys2Proof/Machine/Ops.lean ====
section
/-! DEFINITION. The named operations over the state: tables, heads, ports, notices, the release of a site, the bank
swap. -/

namespace Sys2Proof.Machine

/-! ## Tables -/

/-- The entry at an index; the table's reset value where none is listed. -/
def Table.get {α : Type} (d : α) : Table α → Nat → α
  | [], _ => d
  | (k', v) :: t, k => if k' = k then v else Table.get d t k

/-- Put an entry in its place among rising keys. -/
def Table.insert {α : Type} : Table α → Nat → α → Table α
  | [], k, v => [(k, v)]
  | (k', v') :: t, k, v => if k < k' then (k, v) :: (k', v') :: t else (k', v') :: Table.insert t k v

/-- Take every entry of an index out. -/
def Table.erase {α : Type} (t : Table α) (k : Nat) : Table α := t.filter (fun e => e.1 != k)

/-- Write an entry, keeping the canonical form: an entry equal to the reset value is not listed. -/
def Table.set {α : Type} [DecidableEq α] (d : α) (t : Table α) (k : Nat) (v : α) : Table α :=
  if v = d then Table.erase t k else Table.insert (Table.erase t k) k v

/-- Write the `n` entries from index `lo` on, each from its index and its value before. -/
def Table.update {α : Type} [DecidableEq α] (d : α) (t : Table α) (lo : Nat) : Nat → (Nat → α → α) → Table α
  | 0, _ => t
  | n + 1, f => Table.update d (Table.set d t lo (f lo (Table.get d t lo))) (lo + 1) n f

/-- The canonical form: keys strictly rising, and no entry equal to the reset value. -/
def Table.wf {α : Type} [DecidableEq α] (d : α) : Table α → Bool
  | [] => true
  | (k, v) :: t => decide (v ≠ d) && t.all (fun e => decide (k < e.1)) && Table.wf d t

/-! ## Heads and ports -/

/-- The other head. -/
def otherHead : Head → Head
  | .a => .b
  | .b => .a

/-- The Head Port of a head. -/
def headPort : Head → Port
  | .a => .headA
  | .b => .headB

/-- The head of a Head Port; none for the Cell Port. -/
def portHead : Port → Option Head
  | .cell => none
  | .headA => some .a
  | .headB => some .b

/-- What the part holds for a head. -/
def State.head (s : State) : Head → HeadUnit
  | .a => s.headA
  | .b => s.headB

/-- Change what the part holds for a head. -/
def State.modHead (s : State) (h : Head) (f : HeadUnit → HeadUnit) : State :=
  match h with
  | .a => { s with headA := f s.headA }
  | .b => { s with headB := f s.headB }

/-- A port and its queue. -/
def State.port (s : State) : Port → PortUnit
  | .cell => s.cell
  | .headA => s.portA
  | .headB => s.portB

/-- Change a port or its queue. -/
def State.modPort (s : State) (p : Port) (f : PortUnit → PortUnit) : State :=
  match p with
  | .cell => { s with cell := f s.cell }
  | .headA => { s with portA := f s.portA }
  | .headB => { s with portB := f s.portB }

/-- Put an engine into a state. -/
def State.setEngine (s : State) (h : Head) (e : Engine) : State := s.modHead h (fun u => { u with engine := e })

/-- Write or remove a claim record. -/
def State.setClaim (s : State) (h : Head) (c : Option Claim) : State := s.modHead h (fun u => { u with claim := c })

/-- Write or remove a waiting-claim record. -/
def State.setWaiting (s : State) (h : Head) (w : Option Wait) : State :=
  s.modHead h (fun u => { u with waiting := w })

/-- Change a Head Line Unit. -/
def State.modLines (s : State) (h : Head) (f : Lines → Lines) : State :=
  s.modHead h (fun u => { u with lines := f u.lines })

/-- Start, restart or stop a silence timer (R103). -/
def State.setSilence (s : State) (h : Head) (t : Option Nat) : State :=
  s.modHead h (fun u => { u with link := { u.link with silence := t } })

/-! ## The engine -/

/-- The state of an engine by name. -/
def phaseState : Phase → EngineState
  | .approach => .approach
  | .engage => .engage
  | .held _ => .held
  | .dwell => .dwell
  | .retract => .retract
  | .faulted => .faulted

/-- The state of an engine by name. -/
def engineState : Engine → EngineState
  | .idle => .idle
  | .composing _ => .composing
  | .armed _ _ => .armed
  | .stroke ph _ _ _ => phaseState ph

/-- Whether an engine is IDLE. -/
def engineIdle : Engine → Bool
  | .idle => true
  | .composing _ => false
  | .armed _ _ => false
  | .stroke _ _ _ _ => false

/-- The job of an engine out of IDLE. -/
def engineJob : Engine → Option Job
  | .idle => none
  | .composing job => some job
  | .armed job _ => some job
  | .stroke _ job _ _ => some job

/-- The state of that name in a stroke. -/
def livePhase : Live → Phase
  | .approach => .approach
  | .engage => .engage
  | .dwell => .dwell

/-- The state a stroke is judged in, and whether it is HELD in it; none in RETRACT and FAULTED (R126). -/
def phaseLive : Phase → Option (Bool × Live)
  | .approach => some (false, .approach)
  | .engage => some (false, .engage)
  | .dwell => some (false, .dwell)
  | .held ret => some (true, ret)
  | .retract => none
  | .faulted => none

/-- The engine state of a stroke judged in `l`, held or not (R126). -/
def phaseOf (held : Bool) (l : Live) : Phase := if held then .held l else livePhase l

/-! ## Sites, pins and records -/

/-- A site record (R1). -/
def State.site (s : State) (i : Nat) : Site := Table.get Site.undefined s.map.sites i

/-- Write a site record. -/
def State.setSite (s : State) (i : Nat) (x : Site) : State :=
  { s with map := { s.map with sites := Table.set Site.undefined s.map.sites i x } }

/-- A pin record (R4). -/
def State.pin (s : State) (i : Nat) : Pin := Table.get Pin.blank s.map.pins i

/-- A lock flag (R15). -/
def State.locked (s : State) (i : Nat) : Bool := Table.get false s.map.locks i

/-- Write a lock flag. -/
def State.setLock (s : State) (i : Nat) (b : Bool) : State :=
  { s with map := { s.map with locks := Table.set false s.map.locks i b } }

/-- A Press Record (R155). -/
def State.record (s : State) (i : Nat) : PressRecord := Table.get PressRecord.emptyForm s.records i

/-- The verdict of a pin (R155). -/
def State.verdict (s : State) (i : Nat) : PinVerdict := Table.get PinVerdict.noVerdict s.verdicts i

/-- Whether a site is held: CLAIMED or PRESSING. -/
def siteHeld (x : Site) : Bool :=
  match x.state with
  | .claimed => true
  | .pressing => true
  | .unused => false
  | .pending => false
  | .seated => false
  | .rejected => false
  | .partialIn => false

/-- Whether a site is defined (R1). -/
def siteDefined (x : Site) : Bool := decide (x.state ≠ .unused)

/-- The prior state that a claim of a kind gives its site (R2). -/
def priorOf : Kind → PriorState
  | .press => .pending
  | .verify => .seated

/-- A prior state as a site state. -/
def priorSite : PriorState → SiteState
  | .pending => .pending
  | .seated => .seated

/-- The state a site returns to when its claim is given up: its prior state (R2). A site without one, which no
run reaches while it is held, goes to PENDING. -/
def returnState (x : Site) : SiteState := priorSite (x.prior.getD .pending)

/-- Set a site's state and remove its holder and prior state (R2). -/
def State.resolveSite (s : State) (i : Nat) (st : SiteState) : State :=
  s.setSite i { s.site i with state := st, holder := none, prior := none }

/-- Change a site between CLAIMED and PRESSING, which keeps its holder and prior state (R2). -/
def State.setSiteState (s : State) (i : Nat) (st : SiteState) : State :=
  s.setSite i { s.site i with state := st }

/-! ## Notices (11.6) -/

/-- The level of a kind of notice (R183). -/
def noticeLevel : NoticeKind → Level
  | .strokeFault => .urgent
  | .interlockHold => .urgent
  | .armed => .normal
  | .armFailed => .normal
  | .strokeVerdict => .normal
  | .strokeDone => .normal
  | .claimGranted => .normal
  | .claimRefused => .normal
  | .interlockResumed => .normal
  | .swapDone => .normal
  | .traceFull => .normal

/-- Whether a notice is URGENT (R183). -/
def urgent (n : Notice) : Bool := decide (noticeLevel n.kind = .urgent)

/-- Place a notice by its level: an URGENT one after the last URGENT one, a NORMAL one at the end (R184). -/
def placeNotice (items : List Notice) (n : Notice) : List Notice :=
  if urgent n then items.takeWhile urgent ++ n :: items.dropWhile urgent else items ++ [n]

/-- Remove the newest NORMAL notice (R184). -/
def dropNewestNormal (items : List Notice) : List Notice :=
  (items.reverse.eraseP (fun m => !urgent m)).reverse

/-- The arrival of a notice at a queue (R184). -/
def arrive (q : NoticeQueue) (n : Notice) : NoticeQueue :=
  if q.items.length < Config.noticeLimit then { q with items := placeNotice q.items n }
  else if urgent n && q.items.any (fun m => !urgent m) then
    { items := placeNotice (dropNewestNormal q.items) n, overrun := true }
  else { q with overrun := true }

/-- Post a notice to one queue. -/
def State.postTo (s : State) (p : Port) (n : Notice) : State :=
  s.modPort p (fun u => { u with queue := arrive u.queue n })

/-- Post a notice to a head's port and to the Cell Port (R183). -/
def State.postHead (s : State) (h : Head) (n : Notice) : State := (s.postTo (headPort h) n).postTo .cell n

/-- Post a notice to all three ports (R183). -/
def State.postAll (s : State) (n : Notice) : State :=
  ((s.postTo .cell n).postTo .headA n).postTo .headB n

/-! ## Lines -/

/-- Assert a head's STOP latch, which returns its override to ENGINE (R143). -/
def State.assertStop (s : State) (h : Head) : State :=
  s.modLines h (fun l => { l with stop := true, override := .engine })

/-- Start a MARK pulse when the source is the one the event gives pulses for; a running pulse restarts (R145, R146). -/
def State.mark (s : State) (h : Head) (source : MarkSource) : State :=
  s.modLines h (fun l => if l.markSource = source then { l with pulse := some Config.pulseMicros } else l)

/-! ## The bank swap (4.4) -/

/-- The other bank. -/
def otherBank : Bank → Bank
  | .zero => .one
  | .one => .zero

/-- Whether both engines are IDLE. -/
def State.bothIdle (s : State) : Bool := engineIdle s.headA.engine && engineIdle s.headB.engine

/-- The notice of a swap, with the new generation in its station field (R70, 12.4). -/
def swapDone (generation : Half) : Notice :=
  { kind := .swapDone, head := none, site := none, reason := none, station := some generation.toNat, lane := none }

/-- The swap (R70). -/
def State.swap (s : State) : State :=
  { s with
      library :=
        { s.library with
            active := otherBank s.library.active, generation := s.library.generation + 1, swapPending := false } }.postAll
    (swapDone (s.library.generation + 1))

/-- The swap takes place in the event that makes the second engine IDLE while it is pending (R71). -/
def State.trySwap (s : State) : State := if s.library.swapPending && s.bothIdle then s.swap else s

/-! ## Giving up a claim (3.4, 3.5) -/

/-- Set the due mark of a head's waiting claim, if it has one (R49). -/
def State.markDue (s : State) (h : Head) : State :=
  s.modHead h (fun u => { u with waiting := u.waiting.map (fun w => { w with due := true }) })

/-- The release of a held site: its state, holder and prior state, the claim record of its head, and the due mark of
the other head's waiting claim, in one event (R48, R49). -/
def State.releaseSite (s : State) (h : Head) (i : Nat) (st : SiteState) : State :=
  ((s.resolveSite i st).setClaim h none).markDue (otherHead h)

/-- Take an engine to IDLE: the Envelope Table, the snapshot and the stroke context go, and the silence timer stops
(R30, R77, R103, R111). -/
def State.toIdle (s : State) (h : Head) : State := (s.setEngine h .idle).setSilence h none

end Sys2Proof.Machine
end

