-- ==== Sys2Proof/Machine/Flags.lean ====
section
/-! DEFINITION. The levels and readings that follow from the state: PERMIT, STOP and MARK, RDY and ATTN, the interlock as
read through its polarity, link present. -/

namespace Sys2Proof.Machine

/-- Whether an engine is in APPROACH or ENGAGE. -/
def advancing : Engine → Bool
  | .idle => false
  | .composing _ => false
  | .armed _ _ => false
  | .stroke ph _ _ _ => decide (ph = .approach ∨ ph = .engage)

/-- The PERMIT level of a head (R141). -/
def permitLevel (u : HeadUnit) : Bool :=
  match u.lines.override with
  | .engine => !u.lines.stop && advancing u.engine
  | .forceOff => false
  | .forceOn => true

/-- The STOP level of a head (R140). -/
def stopLevel (u : HeadUnit) : Bool := u.lines.stop

/-- Whether an engine is in DWELL, or in HELD with return state DWELL (R145). -/
def seatedPhase : Engine → Bool
  | .idle => false
  | .composing _ => false
  | .armed _ _ => false
  | .stroke ph _ _ _ => decide (ph = .dwell ∨ ph = .held .dwell)

/-- The MARK level of a head: a running pulse, or the level of the SEATED source (R145, R146). -/
def markLevel (u : HeadUnit) : Bool :=
  u.lines.pulse.isSome || (decide (u.lines.markSource = .seated) && seatedPhase u.engine)

/-- The interlock reading of an input level through a polarity: true is active (R147). -/
def interlockReading (polarity : Polarity) (high : Bool) : Bool :=
  match polarity with
  | .activeHigh => high
  | .activeLow => !high

/-- The interlock of a head as read through its polarity (R147). -/
def interlockActive (u : HeadUnit) : Bool :=
  interlockReading u.settings.interlockPolarity u.lines.interlockHigh

/-- The link timeout that a head's receiver reads, in ms: the snapshot's while the engine is out of IDLE, else the working
one (R31, R105). -/
def linkTimeout (u : HeadUnit) : Nat :=
  match engineJob u.engine with
  | some job => job.settings.linkTimeout
  | none => u.settings.judged.linkTimeout

/-- Whether a head's link is present (R105). -/
def linkPresent (u : HeadUnit) : Bool :=
  match u.link.sinceAccepted with
  | some t => decide (t < linkTimeout u * Config.microsPerMilli)
  | none => false

/-- The RDY level of a port (R174). -/
def rdyLevel (u : PortUnit) : Bool := u.reply.isSome

/-- The ATTN level of a port (R185). -/
def attnLevel (u : PortUnit) : Bool := !u.queue.items.isEmpty

end Sys2Proof.Machine
end

