-- ==== Sys2Proof/Machine/Formats.lean ====
section
/-! DEFINITION. The codes of enumerated fields (12.6), the reply frame (12.3) and the payloads (12.4). -/

namespace Sys2Proof.Machine

/-! ## Codes (12.3, 12.6) -/

/-- The code of a status (12.3). -/
def statusCode : Status → Nat
  | .ok => 0x00
  | .okClamped => 0x01
  | .accepted => 0x02
  | .pending => 0x03
  | .waiting => 0x04
  | .empty => 0x05
  | .busy => 0x06
  | .refusedState => 0x07
  | .mapState => 0x08
  | .mapInUse => 0x09
  | .invalidMap => 0x0A
  | .range => 0x0B
  | .locked => 0x0C
  | .taken => 0x0D
  | .conflict => 0x0E
  | .holdsClaim => 0x0F
  | .noClaim => 0x10
  | .notWaiting => 0x11
  | .toolMismatch => 0x12
  | .stopped => 0x13
  | .interlock => 0x14
  | .lineForced => 0x15
  | .swapBusy => 0x16
  | .recordChanged => 0x17
  | .frameError => 0x18
  | .unknown => 0x19

def headCode : Head → Nat
  | .a => 0
  | .b => 1

def kindCode : Kind → Nat
  | .press => 0
  | .verify => 1

def siteStateCode : SiteState → Nat
  | .unused => 0
  | .pending => 1
  | .claimed => 2
  | .pressing => 3
  | .seated => 4
  | .rejected => 5
  | .partialIn => 6

def engineStateCode : EngineState → Nat
  | .idle => 0
  | .composing => 1
  | .armed => 2
  | .approach => 3
  | .engage => 4
  | .held => 5
  | .dwell => 6
  | .retract => 7
  | .faulted => 8

def outcomeCode : StrokeOutcome → Nat
  | .noOutcome => 0
  | .seatedPass => 1
  | .windowFail => 2
  | .earlySeat => 3
  | .notSeated => 4
  | .noContact => 5
  | .overforce => 6
  | .sensorFault => 7
  | .linkLost => 8
  | .aborted => 9
  | .verifyPass => 10
  | .verifyFail => 11

def pinVerdictCode : PinVerdict → Nat
  | .noVerdict => 0
  | .pass => 1
  | .laneFail => 2
  | .notSeated => 3
  | .overforce => 4
  | .partialIn => 5
  | .notPressed => 6
  | .empty => 7

def laneVerdictCode : LaneVerdict → Nat
  | .pass => 0
  | .fail => 1
  | .unused => 2

def noticeKindCode : NoticeKind → Nat
  | .strokeFault => 1
  | .interlockHold => 2
  | .armed => 3
  | .armFailed => 4
  | .strokeVerdict => 5
  | .strokeDone => 6
  | .claimGranted => 7
  | .claimRefused => 8
  | .interlockResumed => 9
  | .swapDone => 10
  | .traceFull => 11

def levelCode : Level → Nat
  | .normal => 0
  | .urgent => 1

def armFailureCode : ArmFailure → Nat
  | .stationRange => 0
  | .toolInvalid => 1
  | .profileMissing => 2
  | .aborted => 3

def mapModeCode : MapMode → Nat
  | .edit => 0
  | .active => 1

def mapCheckCode : MapCheck → Nat
  | .pinRange => 1
  | .pinCount => 2
  | .overlap => 3
  | .noLivePin => 4

def profileFaultCode : ProfileFault → Nat
  | .index => 0
  | .count => 1
  | .depthRange => 2
  | .depthOrder => 3
  | .forceRange => 4
  | .boundsOrder => 5
  | .seatForce => 6

def bankRoleCode : BankRole → Nat
  | .active => 0
  | .shadow => 1

/-- The place of a watch slot state in the table of R168; its code on the wire is a free value. -/
def watchStatePlace : WatchState → Nat
  | .empty => 0
  | .armed => 1
  | .filling => 2
  | .full => 3

/-- The code a return state has as an engine state (12.4). -/
def liveCode : Live → Nat
  | .approach => engineStateCode .approach
  | .engage => engineStateCode .engage
  | .dwell => engineStateCode .dwell

/-! ## Fields of a payload -/

/-- A field of one byte. -/
def u8 (n : Nat) : List Byte := [BitVec.ofNat 8 n]

/-- A field of two bytes. -/
def u16 (n : Nat) : List Byte := le16 (BitVec.ofNat 16 n)

/-- A field of four bytes. -/
def u32 (n : Nat) : List Byte := le32 (BitVec.ofNat 32 n)

/-- A signed field of four bytes; a value that does not fit carries a free value (log entry 4). -/
def i32 (n : Int) : List Byte :=
  le32 (if -2147483648 ≤ n ∧ n ≤ 2147483647 then BitVec.ofInt 32 n else Config.wideDepth n)

/-- A signed field of two bytes. -/
def i16 (n : Int) : List Byte := le16 (BitVec.ofInt 16 n)

/-- A flag of one byte. -/
def flag8 (b : Bool) : List Byte := u8 (if b then 1 else 0)

/-- A field of one byte holding an optional value: 255 when it is absent (R188). -/
def opt8 (v : Option Nat) : List Byte := u8 (v.getD 255)

/-- A field of two bytes whose presence is given by a flag: 0 when it is absent (R188). -/
def opt16 (v : Option Nat) : List Byte := u16 (v.getD 0)

/-- A signed field of four bytes whose presence is given by a flag: 0 when it is absent (R188). -/
def optI32 (v : Option Int) : List Byte := i32 (v.getD 0)

/-- A byte of presence or state bits, bit 0 first. -/
def bits8 (bs : List Bool) : List Byte :=
  u8 (bs.foldr (fun b acc => (if b then 1 else 0) + 2 * acc) 0)

/-! ## The reply frame (12.3) -/

/-- The bytes of a reply frame as they go out, with the DISCARDED mark carried in (R175, R188). -/
def replyBytes (r : Reply) (mark : Bool) : List Byte :=
  u16 (5 + r.payload.length) ++ [r.code] ++ u8 (statusCode r.status) ++ bits8 [r.more, mark] ++ r.payload

/-! ## Payloads (12.4) -/

/-- One lane summary, 9 bytes. -/
def summaryBytes (lane : Nat) (l : LaneSummary) : List Byte :=
  u8 lane ++ bits8 [l.used, l.first.isSome] ++ u32 l.peak ++ u8 l.excursions ++ opt8 l.first ++
    u8 (laneVerdictCode l.verdict)

/-- The lane summaries from a lane on. -/
def summariesBytes : Nat → List LaneSummary → List Byte
  | _, [] => []
  | lane, l :: ls => summaryBytes lane l ++ summariesBytes (lane + 1) ls

/-- A Press Record, the READ_RECORD payload. -/
def recordBytes (site : Nat) (r : PressRecord) : List Byte :=
  u8 site ++ opt8 (r.head.map headCode) ++ opt8 (r.kind.map kindCode) ++ u8 (outcomeCode r.outcome) ++
    bits8 [r.contact.isSome, r.seatedDepth.isSome, r.maxDepth.isSome, r.faultLane.isSome, r.faultStation.isSome] ++
    le16 r.bankGeneration ++ le16 r.mapGeneration ++ optI32 r.contact ++ optI32 r.seatedDepth ++ u32 r.peakTotal ++
    optI32 r.maxDepth ++ u8 r.stations ++ u8 r.coarse ++ opt8 r.faultLane ++ opt8 r.faultStation ++
    u8 r.lanes.length ++ summariesBytes 0 r.lanes

/-- One breakpoint, 6 bytes. -/
def breakpointBytes (b : Breakpoint) : List Byte := u16 b.depth ++ u16 b.lower ++ u16 b.upper

/-- The READ_PROFILE payload. -/
def profileBytes (role : BankRole) (generation : Half) (pinType holeClass : Nat) (p : Option Profile) : List Byte :=
  u8 (bankRoleCode role) ++ le16 generation ++ u8 pinType ++ u8 holeClass ++
    match p with
    | none => flag8 false ++ u8 0 ++ u16 0
    | some q => flag8 true ++ u8 q.points.length ++ u16 q.seatForce ++ q.points.flatMap breakpointBytes

/-- A notice, 9 bytes. -/
def noticeBytes (n : Notice) : List Byte :=
  u8 (noticeKindCode n.kind) ++ u8 (levelCode (noticeLevel n.kind)) ++
    bits8 [n.head.isSome, n.site.isSome, n.reason.isSome, n.station.isSome, n.lane.isSome] ++
    opt8 (n.head.map headCode) ++ opt8 n.site ++ opt8 n.reason ++ opt16 n.station ++ opt8 n.lane

/-- One trace entry, 17 bytes. -/
def traceBytes (e : TraceEntry) : List Byte :=
  u8 e.station ++ i32 e.displacement ++ u32 e.measured ++ u32 e.lower ++ u32 e.upper

/-- One site entry of READ_SITES, 5 bytes (R166). -/
def siteEntryBytes (s : State) (i : Nat) : List Byte :=
  u8 i ++ u8 (siteStateCode (s.site i).state) ++ opt8 ((s.site i).holder.map headCode) ++ flag8 (s.locked i) ++
    u8 (outcomeCode (s.record i).outcome)

/-- One pin verdict entry of READ_PINS, 5 bytes (R164). -/
def pinEntryBytes (s : State) (i : Nat) : List Byte :=
  u16 i ++ u8 (s.pin i).row ++ u8 (s.pin i).column ++ u8 (pinVerdictCode (s.verdict i))

/-- The station index that HEAD_STATUS and INTERLOCK_HOLD report; 0 when there is no stroke (R181). -/
def stationIndexOf : Engine → Nat
  | .idle => 0
  | .composing _ => 0
  | .armed _ _ => 0
  | .stroke _ _ _ ctx => ctx.stationIndex

/-- The return state of an engine, present in HELD (R181). -/
def returnStateOf : Engine → Option Live
  | .idle => none
  | .composing _ => none
  | .armed _ _ => none
  | .stroke ph _ _ _ =>
    match ph with
    | .held ret => some ret
    | .approach => none
    | .engage => none
    | .dwell => none
    | .retract => none
    | .faulted => none

/-- The last-frame copy in HEAD_STATUS: zeros in bytes 11 to 18 and no raw values while it is absent. -/
def lastFrameBytes (f : Option Sample) : List Byte :=
  match f with
  | none => flag8 false ++ u32 0 ++ u8 0 ++ u16 0 ++ u8 0
  | some c =>
    flag8 true ++ i32 c.displacement ++ flag8 c.encoderFault ++ le16 c.saturation ++ u8 c.laneCount ++
      c.raws.flatMap i16

/-- The HEAD_STATUS payload (R181). -/
def headStatusBytes (h : Head) (u : HeadUnit) : List Byte :=
  u8 (headCode h) ++ u8 (engineStateCode (engineState u.engine)) ++ opt8 ((returnStateOf u.engine).map liveCode) ++
    opt8 (u.claim.map Claim.site) ++ opt8 (u.claim.map (fun c => kindCode c.kind)) ++
    opt8 (u.waiting.map Wait.site) ++ opt8 (u.waiting.map Wait.blocking) ++ u8 (stationIndexOf u.engine) ++
    bits8 [permitLevel u, stopLevel u, markLevel u, interlockActive u] ++ flag8 (linkPresent u) ++
    lastFrameBytes u.link.lastFrame

/-- The code of a port in the IDENTIFY payload (12.4). -/
def portCode : Port → Nat
  | .cell => 0
  | .headA => 1
  | .headB => 2

/-- The IDENTIFY payload (R180). -/
def identifyBytes (s : State) (p : Port) : List Byte :=
  u8 Config.revision ++ u8 Config.siteCount ++ u16 Config.pinCount ++ u8 Config.laneLimit ++ u8 Config.pointLimit ++
    u8 Config.bankCount ++ u8 Config.stationLimit ++ u8 Config.noticeLimit ++ u8 Config.slotCount ++
    u8 (mapModeCode s.map.mode) ++ le16 s.map.generation ++ le16 s.library.generation ++
    flag8 s.library.swapPending ++ u8 (portCode p)

end Sys2Proof.Machine
end

