-- ==== Sys2Proof/Machine/Operands.lean ====
section
/-! DEFINITION. The fields of a request as the rules read them: codes of enumerated fields (12.6), indices, and the
settings of a head with their ranges (R27). -/

namespace Sys2Proof.Machine

/-- The head a field names (12.6). -/
def headOf (b : Byte) : Option Head :=
  match b.toNat with
  | 0 => some .a
  | 1 => some .b
  | _ => none

/-- The kind a field names (12.6). -/
def kindOf (b : Byte) : Option Kind :=
  match b.toNat with
  | 0 => some .press
  | 1 => some .verify
  | _ => none

/-- A field that is true or false: 1 or 0 (12.2). -/
def flagOf (b : Byte) : Option Bool :=
  match b.toNat with
  | 0 => some false
  | 1 => some true
  | _ => none

/-- The bank role a field names (12.6). -/
def roleOf (b : Byte) : Option BankRole :=
  match b.toNat with
  | 0 => some .active
  | 1 => some .shadow
  | _ => none

/-- The PERMIT override a field names (12.6). -/
def overrideOf (b : Byte) : Option PermitOverride :=
  match b.toNat with
  | 0 => some .engine
  | 1 => some .forceOff
  | 2 => some .forceOn
  | _ => none

/-- The MARK source a field names (12.6). -/
def markSourceOf (b : Byte) : Option MarkSource :=
  match b.toNat with
  | 0 => some .off
  | 1 => some .contact
  | 2 => some .station
  | 3 => some .excursion
  | 4 => some .seated
  | _ => none

/-- The match site a field names: 255 is ANY (12.2). -/
def matchSiteOf (b : Byte) : Option MatchSite :=
  if b.toNat = 255 then some .any else if b.toNat < Config.siteCount then some (.site b.toNat) else none

/-- Clamp a value to a range: to the nearer end (R28). -/
def clampTo (lo hi v : Nat) : Nat := if v < lo then lo else if hi < v then hi else v

/-- The thirteen settings of a head, in the order of the table of R27, which is the order of their identifiers (R187). -/
inductive Setting where
  | stationPitch
  | guard
  | excursionAllowance
  | failAction
  | contactThreshold
  | dwell
  | retractClearance
  | linkTimeout
  | verifyPercent
  | verifyTravel
  | headCeiling
  | interlockAction
  | interlockPolarity
deriving DecidableEq, Repr

/-- The setting an identifier names (R187). -/
def settingOf (b : Byte) : Option Setting :=
  match b.toNat with
  | 0 => some .stationPitch
  | 1 => some .guard
  | 2 => some .excursionAllowance
  | 3 => some .failAction
  | 4 => some .contactThreshold
  | 5 => some .dwell
  | 6 => some .retractClearance
  | 7 => some .linkTimeout
  | 8 => some .verifyPercent
  | 9 => some .verifyTravel
  | 10 => some .headCeiling
  | 11 => some .interlockAction
  | 12 => some .interlockPolarity
  | _ => none

/-- The range of a numeric setting; none for an enumerated one (R27). -/
def settingRange : Setting → Option (Nat × Nat)
  | .stationPitch => some (10, 200)
  | .guard => some (0, 250)
  | .excursionAllowance => some (0, 15)
  | .failAction => none
  | .contactThreshold => some (100, 1000000)
  | .dwell => some (0, 5000)
  | .retractClearance => some (100, 20000)
  | .linkTimeout => some (1, 50)
  | .verifyPercent => some (50, 100)
  | .verifyTravel => some (20, 500)
  | .headCeiling => some (1, 268435455)
  | .interlockAction => none
  | .interlockPolarity => none

/-- The number of values of an enumerated setting, whose codes count from 0 (R27, 12.6); 0 for a numeric one. -/
def settingValues : Setting → Nat
  | .failAction => 2
  | .interlockAction => 3
  | .interlockPolarity => 2
  | .stationPitch => 0
  | .guard => 0
  | .excursionAllowance => 0
  | .contactThreshold => 0
  | .dwell => 0
  | .retractClearance => 0
  | .linkTimeout => 0
  | .verifyPercent => 0
  | .verifyTravel => 0
  | .headCeiling => 0

/-- The fail action of a code (12.6). -/
def failActionOf (v : Nat) : FailAction := if v = 0 then .continue else .stop

/-- The interlock action of a code (12.6). -/
def interlockActionOf (v : Nat) : InterlockAction :=
  if v = 0 then .holdLevel else if v = 1 then .holdLatch else .abort

/-- The polarity of a code (12.6). -/
def polarityOf (v : Nat) : Polarity := if v = 0 then .activeHigh else .activeLow

/-- Store a value, already judged, in one setting (R28). -/
def storeSetting (t : Settings) (g : Setting) (v : Nat) : Settings :=
  match g with
  | .stationPitch => { t with judged := { t.judged with stationPitch := v } }
  | .guard => { t with judged := { t.judged with guard := v } }
  | .excursionAllowance => { t with judged := { t.judged with excursionAllowance := v } }
  | .failAction => { t with judged := { t.judged with failAction := failActionOf v } }
  | .contactThreshold => { t with judged := { t.judged with contactThreshold := v } }
  | .dwell => { t with judged := { t.judged with dwell := v } }
  | .retractClearance => { t with judged := { t.judged with retractClearance := v } }
  | .linkTimeout => { t with judged := { t.judged with linkTimeout := v } }
  | .verifyPercent => { t with judged := { t.judged with verifyPercent := v } }
  | .verifyTravel => { t with judged := { t.judged with verifyTravel := v } }
  | .headCeiling => { t with judged := { t.judged with headCeiling := v } }
  | .interlockAction => { t with interlockAction := interlockActionOf v }
  | .interlockPolarity => { t with interlockPolarity := polarityOf v }

/-- What SET_HEAD stores for a value and the status it answers with, by cases 3 to 5 of R28; none is RANGE. -/
def judgeSetting (g : Setting) (v : Nat) : Option (Nat × Status) :=
  match settingRange g with
  | some (lo, hi) => if v < lo ∨ hi < v then some (clampTo lo hi v, .okClamped) else some (v, .ok)
  | none => if v < settingValues g then some (v, .ok) else none

end Sys2Proof.Machine
end

