-- ==== Sys2Proof/Machine/Ports.lean ====
section
/-! DEFINITION. The Port Interface: how a request frame is judged, replies, block transfers, reads, notices fetched
(11.1 to 11.3, 9.7). -/

namespace Sys2Proof.Machine

/-! ## Taking a request (11.2) -/

/-- Whether a port has a pending reply or an open transfer (R176). -/
def portBusy (u : PortUnit) : Bool := u.reply.isSome || u.transfer.isSome

/-- A frame's arrival, or its transaction's end, leaves no frame in reception (R175). -/
def State.endReception (s : State) (p : Port) : State := s.modPort p (fun u => { u with reception := none })

/-- Set the DISCARDED mark (R176). -/
def State.discard (s : State) (p : Port) : State := s.modPort p (fun u => { u with discarded := true })

/-- Make a single reply the pending reply (R177). -/
def State.answer (s : State) (p : Port) (code : Byte) (status : Status) (payload : List Byte) : State :=
  s.modPort p (fun u => { u with reply := some { code := code, status := status, more := false, payload := payload } })

/-- Whether a write stands in reception short of its frame's last byte. -/
def leftShort (u : PortUnit) : Bool :=
  match u.reception with
  | some (.bytes got) => readTransaction got == .incomplete
  | some (.lapsed _) => false
  | none => false

/-- A transaction of its own on a port: the master has ended the one in reception, and a write that it left short of its
frame's last byte is discarded as incomplete, which sets the DISCARDED mark (R175, R176; log entry 7). -/
def State.beginTransaction (s : State) (p : Port) : State :=
  s.modPort p (fun u => { u with discarded := u.discarded || leftShort u, reception := none })

/-- Judge a request frame by R176 and R177, and hand it to the block that owns it where neither answers it. Its
transaction ends the one that stands in reception (R175). -/
def judgeFrame (i : Instr) (p : Port) (body : State → State) (s : State) : State :=
  if portBusy (s.port p) then (s.beginTransaction p).discard p
  else if 256 < frameLength i then (s.beginTransaction p).answer p 0x00 .frameError []
  else if !codeListed p (requestCode i) then (s.beginTransaction p).answer p (requestCode i) .unknown []
  else if !lengthAgrees p i then (s.beginTransaction p).answer p (requestCode i) .frameError []
  else body (s.beginTransaction p)

/-- What the owning block makes of a request: the state, the status and the payload of its reply. -/
abbrev Answer : Type := State × Status × List Byte

/-- A request answered by a single reply, formed in the event of the request (R177 case 4). -/
def receive (i : Instr) (p : Port) (body : State → Answer) (s : State) : State :=
  judgeFrame i p (fun t => (body t).1.answer p (requestCode i) (body t).2.1 (body t).2.2) s

/-- A Head Port request concerns that port's head (R177); on the Cell Port, which lists none of these, nothing is done. -/
def onHead (p : Port) (body : Head → State → Answer) (s : State) : Answer :=
  match portHead p with
  | some h => body h s
  | none => (s, .unknown, [])

/-- The head that a request concerns: the port's own, or on the Cell Port the one its head field names (R177). -/
def requestHead (p : Port) (head : Option Byte) : Option Head :=
  match portHead p with
  | some h => some h
  | none => head.bind headOf

/-- A request that concerns a head, refused RANGE when its head field names neither A nor B (R177). -/
def onNamedHead (p : Port) (head : Option Byte) (body : Head → State → Answer) (s : State) : Answer :=
  match requestHead p head with
  | some h => body h s
  | none => (s, .range, [])

/-! ## Block transfers (R163 to R167, R173, R178) -/

/-- The watch slot of an index. -/
def State.slot (s : State) (k : Nat) : WatchSlot := if k = 0 then s.slot0 else s.slot1

/-- Write a watch slot. -/
def State.setSlot (s : State) (k : Nat) (w : WatchSlot) : State :=
  if k = 0 then { s with slot0 := w } else { s with slot1 := w }

/-- The code of the request that opened a transfer. -/
def transferCode : TransferKind → Byte
  | .pins _ _ => 0x40
  | .sites _ => 0x41
  | .trace _ => 0x4A

/-- The position of an entry as its request counts it: the place within the site, the site index, or the place in
the trace. -/
def transferPosition (k : TransferKind) (n : Nat) : Nat :=
  match k with
  | .pins _ first => first + n
  | .sites first => first + n
  | .trace _ => n

/-- The head of a block of `n` entries (12.4). -/
def blockHead (s : State) (t : Transfer) (n : Nat) : List Byte :=
  match t.kind with
  | .pins site first => u8 site ++ u16 (first + t.formed) ++ u16 t.count ++ u8 n
  | .sites first => u8 (first + t.formed) ++ u8 t.count ++ u8 n
  | .trace k =>
    u8 k ++ opt8 (s.slot k).matchLane ++ opt8 ((s.slot k).source.map (fun w => headCode w.head)) ++
      opt8 ((s.slot k).source.map WatchSource.site) ++ opt8 ((s.slot k).outcome.map outcomeCode) ++ u8 t.count ++
      u8 t.formed ++ u8 n

/-- The `n` entries of a block, read from the store and the map as they stand (R163). -/
def blockEntries (s : State) (t : Transfer) (n : Nat) : List Byte :=
  match t.kind with
  | .pins site first =>
    (List.range n).flatMap (fun k => pinEntryBytes s ((s.site site).firstPin + (first + t.formed + k)))
  | .sites first => (List.range n).flatMap (fun k => siteEntryBytes s (first + t.formed + k))
  | .trace w => (((s.slot w).trace.drop t.formed).take n).flatMap traceBytes

/-- The entries in the next block: the block size, or what is left of the count (R163). -/
def blockLength (s : State) (t : Transfer) : Nat := min s.blockSize (t.count - t.formed)

/-- The next block of a transfer as a reply; the RECORD_CHANGED block when the transfer has been overtaken (R165). -/
def nextBlock (s : State) (t : Transfer) (status : Status) : Reply :=
  if t.overtaken then
    { code := transferCode t.kind, status := .recordChanged, more := false, payload := blockHead s t 0 }
  else
    { code := transferCode t.kind, status := status, more := decide (t.formed + blockLength s t < t.count),
      payload := blockHead s t (blockLength s t) ++ blockEntries s t (blockLength s t) }

/-- A transfer after its next block has been formed. -/
def advanceTransfer (s : State) (t : Transfer) : Transfer :=
  { t with before := t.formed, formed := if t.overtaken then t.formed else t.formed + blockLength s t }

/-- Form the next block, which becomes the pending reply (R178). -/
def State.formBlock (s : State) (p : Port) (t : Transfer) (status : Status) : State :=
  s.modPort p (fun u => { u with reply := some (nextBlock s t status), transfer := some (advanceTransfer s t) })

/-- Open a transfer: its first block is formed in the event of the request, OK_CLAMPED when the count was clamped. -/
def State.openTransfer (s : State) (p : Port) (k : TransferKind) (count : Nat) (clamped : Bool) : State :=
  s.formBlock p { kind := k, count := count, formed := 0, before := 0, overtaken := false }
    (if clamped then .okClamped else .ok)

/-- A record write overtakes a READ_PINS of its site whose last block has not been formed (R165). -/
def overtake (t : Transfer) (site : Nat) : Transfer :=
  match t.kind with
  | .pins i _ => if i = site ∧ t.formed < t.count then { t with overtaken := true } else t
  | .sites _ => t
  | .trace _ => t

/-- The transfers that a write of a site's Press Record overtakes; only the Cell Port opens one. -/
def State.overtakeTransfer (s : State) (site : Nat) : State :=
  s.modPort .cell (fun u => { u with transfer := u.transfer.map (fun t => overtake t site) })

/-! ## Reading the pending reply (R175, R178, R186) -/

/-- The reply is read: it goes out with the DISCARDED mark, which is cleared, and the next block is formed if it was
flagged MORE; otherwise an open transfer ends. With no reply pending the master clocks out a length of 0. -/
def State.readReply (s : State) (p : Port) : State :=
  match (s.port p).reply with
  | none => s.modPort p (fun u => { u with wire := [0x00, 0x00] })
  | some r =>
    match r.more, (s.port p).transfer with
    | true, some t =>
      (s.modPort p (fun u => { u with wire := replyBytes r u.discarded, discarded := false, reply := none })).formBlock p
        t .ok
    | true, none =>
      s.modPort p (fun u => { u with wire := replyBytes r u.discarded, discarded := false, reply := none })
    | false, _ =>
      s.modPort p (fun u =>
        { u with wire := replyBytes r u.discarded, discarded := false, reply := none, transfer := none })

/-- The frame that a read transaction clocks out: the pending reply, or a length of 0 where none is pending (R186). -/
def frameOut (u : PortUnit) : List Byte :=
  match u.reply with
  | some r => replyBytes r u.discarded
  | none => [0x00, 0x00]

/-- A read transaction in which so many bytes have been clocked out, with what is then in reception: short of the frame's last
byte it leaves the pending reply, whole, and the mark (R175); the bytes beyond it read as 00 and read no second reply
(R186). -/
def State.readBytes (s : State) (p : Port) (n : Nat) (going : Option Reception) : State :=
  if n < (frameOut (s.port p)).length then
    s.modPort p (fun u => { u with wire := (frameOut u).take n, reception := going })
  else
    ((s.endReception p).readReply p).modPort p (fun u =>
      { u with wire := u.wire ++ List.replicate (n - u.wire.length) 0x00 })

/-- REPLY_READ: a whole read, in a transaction of its own (R175). -/
def execReplyRead (p : Port) (s : State) : Host.Outcome State Fault Refusal := .next ((s.beginTransaction p).readReply p)

/-! ## SET_BLOCK, END_TRANSFER, FETCH_NOTICE, IDENTIFY -/

/-- SET_BLOCK's body (R178). -/
def setBlockBody (size : Byte) (s : State) : Answer :=
  if size.toNat = 4 ∨ size.toNat = 8 ∨ size.toNat = 16 ∨ size.toNat = 32 then
    ({ s with blockSize := size.toNat }, .ok, [size])
  else (s, .range, [])

/-- SET_BLOCK (R178). -/
def execSetBlock (p : Port) (size : Byte) (s : State) : Host.Outcome State Fault Refusal :=
  .next (receive (.setBlock p size) p (setBlockBody size) s)

/-- END_TRANSFER taken: the pending block is dropped and the transfer removed; the reply carries the request that had
opened it and the position of the first entry not delivered (R179). -/
def State.dropTransfer (s : State) (p : Port) (t : Transfer) : State :=
  (s.modPort p (fun u => { u with transfer := none })).answer p (requestCode (.endTransfer p)) .ok
    ([transferCode t.kind] ++ u16 (transferPosition t.kind t.before))

/-- END_TRANSFER (R176, R179). -/
def execEndTransfer (p : Port) (s : State) : Host.Outcome State Fault Refusal :=
  match p, s.cell.transfer with
  | .cell, some t => .next ((s.beginTransaction .cell).dropTransfer .cell t)
  | _, _ => .next (receive (.endTransfer p) p (fun t => (t, .refusedState, [])) s)

/-- FETCH_NOTICE's body (R185). -/
def fetchNoticeBody (p : Port) (s : State) : Answer :=
  match (s.port p).queue.items with
  | [] =>
    (s.modPort p (fun u => { u with queue := { items := [], overrun := false } }), .empty,
      flag8 (s.port p).queue.overrun)
  | n :: rest =>
    (s.modPort p (fun u => { u with queue := { items := rest, overrun := false } }), .ok,
      flag8 (s.port p).queue.overrun ++ noticeBytes n)

/-- FETCH_NOTICE (R185). -/
def execFetchNotice (p : Port) (s : State) : Host.Outcome State Fault Refusal :=
  .next (receive (.fetchNotice p) p (fetchNoticeBody p) s)

/-- IDENTIFY (R180). -/
def execIdentify (p : Port) (s : State) : Host.Outcome State Fault Refusal :=
  .next (receive (.identify p) p (fun t => (t, .ok, identifyBytes t p)) s)

/-- HEAD_STATUS's body (R181). -/
def headStatusBody (h : Head) (s : State) : Answer := (s, .ok, headStatusBytes h (s.head h))

/-- HEAD_STATUS (R181). -/
def execHeadStatus (p : Port) (head : Option Byte) (s : State) : Host.Outcome State Fault Refusal :=
  .next (receive (.headStatus p head) p (onNamedHead p head headStatusBody) s)

end Sys2Proof.Machine
end

