-- ==== Sys2Proof/Machine/Claims.lean ====
section
/-! DEFINITION. The Claim Arbiter (chapter 3). -/

namespace Sys2Proof.Machine

/-! ## Judging a claim (3.2, 3.3) -/

/-- The absolute difference of two positions. -/
def separation (a b : Nat) : Nat := (a - b) + (b - a)

/-- Whether two sites conflict under keep-out (R44). -/
def State.conflict (s : State) (i j : Nat) : Bool :=
  decide (s.map.keepOut ≠ 0 ∧ i ≠ j ∧
    max (separation (s.site i).x (s.site j).x) (separation (s.site i).y (s.site j).y) < s.map.keepOut)

/-- What the nine checks make of a claim (R39). -/
inductive Judgement where
  /-- One of checks 1 to 8 fails, with the reply it gives. -/
  | refused (status : Status)
  /-- Check 9 fails against the other head's held site. -/
  | blocked (site : Nat)
  /-- All nine pass. -/
  | granted (kind : Kind)
deriving DecidableEq, Repr

/-- The site state that check 7 asks for (R42). -/
def claimableState (k : Kind) : SiteState := priorSite (priorOf k)

/-- Checks 4 to 9 for a site index within the table and a kind (R41 to R45). -/
def State.judgeSite (s : State) (h : Head) (i : Nat) (k : Kind) : Judgement :=
  if Config.siteCount ≤ i ∨ (s.site i).state = .unused then .refused .range
  else if s.locked i then .refused .locked
  else if (s.site i).holder = some (otherHead h) then .refused .taken
  else if (s.site i).state ≠ claimableState k then .refused .refusedState
  else if (s.head h).tool.laneCount = 0 ∨ (s.site i).toolCode ≠ (s.head h).tool.toolCode then .refused .toolMismatch
  else
    match (s.head (otherHead h)).claim with
    | some c => if s.conflict i c.site then .blocked c.site else .granted k
    | none => .granted k

/-- The nine checks (R39). `busy` is check 3's answer, which a re-evaluation makes of the claim record alone (R50); a kind
or wait flag outside its two names fails check 4. -/
def State.judgeClaim (s : State) (h : Head) (busy : Bool) (i : Nat) (k : Option Kind) (wait : Option Bool) : Judgement :=
  if s.map.mode = .edit then .refused .mapState
  else if stopLevel (s.head h) then .refused .stopped
  else if busy then .refused .holdsClaim
  else
    match k, wait with
    | some kind, some _ => s.judgeSite h i kind
    | some _, none => .refused .range
    | none, _ => .refused .range

/-- The grant of a claim (R46): the claim record, and the site CLAIMED with holder and prior state (R2). -/
def State.grant (s : State) (h : Head) (i : Nat) (k : Kind) : State :=
  (s.setSite i { s.site i with state := .claimed, holder := some h, prior := some (priorOf k) }).setClaim h
    (some { site := i, kind := k })

/-- CLAIM's body (R39, R45 to R47). -/
def claimBody (site kind wait : Byte) (h : Head) (s : State) : Answer :=
  match s.judgeClaim h ((s.head h).claim.isSome || (s.head h).waiting.isSome) site.toNat (kindOf kind) (flagOf wait) with
  | .refused st => (s, st, [site])
  | .granted k => (s.grant h site.toNat k, .ok, [site, kind])
  | .blocked by_ =>
    match kindOf kind, flagOf wait with
    | some k, some true =>
      (s.setWaiting h (some { site := site.toNat, kind := k, blocking := by_, due := false }), .waiting,
        [site] ++ u8 by_)
    | _, _ => (s, .conflict, [site] ++ u8 by_)

/-- CLAIM (R39). -/
def execClaim (p : Port) (site kind wait : Byte) (s : State) : Host.Outcome State Fault Refusal :=
  .next (receive (.claim p site kind wait) p (onHead p (claimBody site kind wait)) s)

/-! ## Re-evaluation (3.4) -/

/-- The CLAIM_GRANTED notice (R50). -/
def claimGranted (h : Head) (i : Nat) : Notice :=
  { kind := .claimGranted, head := some h, site := some i, reason := none, station := none, lane := none }

/-- The CLAIM_REFUSED notice, with the refusing status as its reason (R50, 12.4). -/
def claimRefused (h : Head) (i : Nat) (st : Status) : Notice :=
  { kind := .claimRefused, head := some h, site := some i, reason := some (statusCode st), station := none,
    lane := none }

/-- The re-evaluation of a due waiting claim (R50). -/
def State.reevaluate (s : State) (h : Head) (w : Wait) : State :=
  match s.judgeClaim h (s.head h).claim.isSome w.site (some w.kind) (some true) with
  | .granted k => ((s.setWaiting h none).grant h w.site k).postHead h (claimGranted h w.site)
  | .refused st => (s.setWaiting h none).postHead h (claimRefused h w.site st)
  | .blocked by_ => s.setWaiting h (some { w with blocking := by_, due := false })

/-- REEVALUATION (R49, R50): a record that is not due, or no record, has no re-evaluation to come. -/
def execReevaluation (h : Head) (s : State) : Host.Outcome State Fault Refusal :=
  match (s.head h).waiting with
  | some w => if w.due then .next (s.reevaluate h w) else .next s
  | none => .next s

/-! ## Giving up a claim (3.5) -/

/-- RELEASE's body (R52, R53). -/
def releaseBody (h : Head) (s : State) : Answer :=
  match (s.head h).claim with
  | none => (s, .noClaim, [])
  | some c =>
    match (s.head h).engine with
    | .idle => (s.releaseSite h c.site (returnState (s.site c.site)), .ok, u8 c.site)
    | .composing _ => (s, .busy, [])
    | .armed _ _ => (((s.toIdle h).releaseSite h c.site (returnState (s.site c.site))).trySwap, .ok, u8 c.site)
    | .stroke _ _ _ _ => (s, .refusedState, [])

/-- RELEASE (R52). -/
def execRelease (p : Port) (s : State) : Host.Outcome State Fault Refusal :=
  .next (receive (.release p) p (onHead p releaseBody) s)

/-- CANCEL_WAIT's body (R55). -/
def cancelWaitBody (h : Head) (s : State) : Answer :=
  match (s.head h).waiting with
  | some w => (s.setWaiting h none, .ok, u8 w.site)
  | none => (s, .notWaiting, [])

/-- CANCEL_WAIT (R55). -/
def execCancelWait (p : Port) (s : State) : Host.Outcome State Fault Refusal :=
  .next (receive (.cancelWait p) p (onHead p cancelWaitBody) s)

end Sys2Proof.Machine
end

