-- ==== Sys2Proof/Machine/Library.lean ====
section
/-! DEFINITION. The Profile Library's requests (chapter 4). -/

namespace Sys2Proof.Machine

/-- The profiles of a bank. -/
def bankOf (l : Library) (b : Bank) : Table (Option Profile) :=
  match b with
  | .zero => l.bank0
  | .one => l.bank1

/-- Write a bank. -/
def setBank (l : Library) (b : Bank) (t : Table (Option Profile)) : Library :=
  match b with
  | .zero => { l with bank0 := t }
  | .one => { l with bank1 := t }

/-- The bank of a role: the selector's, or the other one (R60). -/
def roleBank (l : Library) (r : BankRole) : Bank :=
  match r with
  | .active => l.active
  | .shadow => otherBank l.active

/-- A profile's place in a bank (R60). -/
def profilePlace (pinType holeClass : Nat) : Nat := pinType * 8 + holeClass

/-- The number of places in a bank (R60). -/
def bankPlaces : Nat := 32

/-- The profile at a place of a bank; none when it is absent (R61). -/
def profileAt (l : Library) (b : Bank) (place : Nat) : Option Profile := Table.get none (bankOf l b) place

/-- Write a profile of the shadow bank; none makes it absent (R65, R66). -/
def State.setShadow (s : State) (place : Nat) (p : Option Profile) : State :=
  { s with
      library :=
        setBank s.library (roleBank s.library .shadow)
          (Table.set none (bankOf s.library (roleBank s.library .shadow)) place p) }

/-- Whether a pin type and a hole class name a place (R63, R66, R68). -/
def placeBad (pinType holeClass : Byte) : Bool := decide (3 < pinType.toNat ∨ 7 < holeClass.toNat)

/-! ## Writing the shadow bank (4.3) -/

/-- The breakpoint of an entry. -/
def entryPoint (e : PointEntry) : Breakpoint :=
  { depth := e.depth.toNat, lower := e.lower.toNat, upper := e.upper.toNat }

/-- The checks of the breakpoints from index `k` on, given the depth of the entry before: the first fault and its index
(R64). -/
def pointsFault : Nat → Option Nat → List Breakpoint → Option (ProfileFault × Nat)
  | _, _, [] => none
  | k, before, b :: bs =>
    if 6000 < b.depth then some (.depthRange, k)
    else if (before.map (fun d => decide (b.depth ≤ d))).getD false then some (.depthOrder, k)
    else if 20000 < b.lower ∨ 20000 < b.upper then some (.forceRange, k)
    else if b.upper < b.lower then some (.boundsOrder, k)
    else pointsFault (k + 1) (some b.depth) bs

/-- The checks of a profile record (R64). -/
def profileFault (count seatForce : Nat) (points : List Breakpoint) : Option (ProfileFault × Option Nat) :=
  if count < 2 ∨ 8 < count then some (.count, none)
  else
    match pointsFault 0 none points with
    | some (f, k) => some (f, some k)
    | none => if seatForce < 1 ∨ 20000 < seatForce then some (.seatForce, none) else none

/-- WRITE_PROFILE's body (R63, R64, R65). -/
def writeProfileBody (pinType holeClass count : Byte) (seatForce : Half) (points : List PointEntry) (s : State) :
    Answer :=
  if s.library.swapPending then (s, .swapBusy, [])
  else if placeBad pinType holeClass then (s, .range, u8 (profileFaultCode .index) ++ opt8 none)
  else
    match profileFault count.toNat seatForce.toNat (points.map entryPoint) with
    | some (f, k) => (s, .range, u8 (profileFaultCode f) ++ opt8 k)
    | none =>
      (s.setShadow (profilePlace pinType.toNat holeClass.toNat)
        (some { points := points.map entryPoint, seatForce := seatForce.toNat }), .ok, [pinType, holeClass, count])

/-- WRITE_PROFILE (R63). -/
def execWriteProfile (p : Port) (pinType holeClass count : Byte) (seatForce : Half) (points : List PointEntry)
    (s : State) : Host.Outcome State Fault Refusal :=
  .next (receive (.writeProfile p pinType holeClass count seatForce points) p
    (writeProfileBody pinType holeClass count seatForce points) s)

/-- CLEAR_PROFILE's body (R66). -/
def clearProfileBody (pinType holeClass : Byte) (s : State) : Answer :=
  if s.library.swapPending then (s, .swapBusy, [])
  else if placeBad pinType holeClass then (s, .range, u8 (profileFaultCode .index))
  else (s.setShadow (profilePlace pinType.toNat holeClass.toNat) none, .ok, [pinType, holeClass])

/-- CLEAR_PROFILE (R66). -/
def execClearProfile (p : Port) (pinType holeClass : Byte) (s : State) : Host.Outcome State Fault Refusal :=
  .next (receive (.clearProfile p pinType holeClass) p (clearProfileBody pinType holeClass) s)

/-- The number of present profiles among the first `n` places of a bank. -/
def presentCount (l : Library) (b : Bank) : Nat → Nat
  | 0 => 0
  | n + 1 => presentCount l b n + (if (profileAt l b n).isSome then 1 else 0)

/-- The library with the active bank copied whole into the shadow bank (R67). -/
def copiedLibrary (l : Library) : Library := setBank l (roleBank l .shadow) (bankOf l l.active)

/-- COPY_BANK's body (R67). -/
def copyBankBody (s : State) : Answer :=
  if s.library.swapPending then (s, .swapBusy, [])
  else
    ({ s with library := copiedLibrary s.library }, .ok,
      u8 (presentCount (copiedLibrary s.library) (roleBank s.library .shadow) bankPlaces))

/-- COPY_BANK (R67). -/
def execCopyBank (p : Port) (s : State) : Host.Outcome State Fault Refusal :=
  .next (receive (.copyBank p) p copyBankBody s)

/-- READ_PROFILE's body (R68). -/
def readProfileBody (role pinType holeClass : Byte) (s : State) : Answer :=
  match roleOf role with
  | none => (s, .range, u8 (profileFaultCode .index))
  | some r =>
    if placeBad pinType holeClass then (s, .range, u8 (profileFaultCode .index))
    else
      (s, .ok,
        profileBytes r s.library.generation pinType.toNat holeClass.toNat
          (profileAt s.library (roleBank s.library r) (profilePlace pinType.toNat holeClass.toNat)))

/-- READ_PROFILE (R68). -/
def execReadProfile (p : Port) (role pinType holeClass : Byte) (s : State) : Host.Outcome State Fault Refusal :=
  .next (receive (.readProfile p role pinType holeClass) p (readProfileBody role pinType holeClass) s)

/-! ## The swap (4.4) -/

/-- A state with swap pending true (R69). -/
def State.askSwap (s : State) : State := { s with library := { s.library with swapPending := true } }

/-- What SWAP_BANKS does to the state: with swap pending true, nothing; else it asks, and the swap takes place at once
if both engines are IDLE (R69). -/
def swapBanksState (s : State) : State := if s.library.swapPending then s else s.askSwap.trySwap

/-- SWAP_BANKS's body (R69). -/
def swapBanksBody (s : State) : Answer :=
  (swapBanksState s, .pending,
    flag8 (swapBanksState s).library.swapPending ++ le16 (swapBanksState s).library.generation)

/-- SWAP_BANKS (R69). -/
def execSwapBanks (p : Port) (s : State) : Host.Outcome State Fault Refusal :=
  .next (receive (.swapBanks p) p swapBanksBody s)

end Sys2Proof.Machine
end

