-- ==== Sys2Proof/Machine/Composer.lean ====
section
/-! DEFINITION. ARM and the composition of the Envelope Table (chapter 5). -/

namespace Sys2Proof.Machine

/-! ## ARM (5.2) -/

/-- The job that an accepted ARM fixes: site and kind from the claim, the snapshot of R30, the bank generation (R79). -/
def armJob (s : State) (h : Head) (c : Claim) : Job :=
  { site := c.site, kind := c.kind, settings := (s.head h).settings.judged,
    bankGeneration := s.library.generation }

/-- ARM's body (R78, R79). -/
def armBody (h : Head) (s : State) : Answer :=
  match (s.head h).claim with
  | none => (s, .noClaim, [])
  | some c =>
    if !engineIdle (s.head h).engine then (s, .refusedState, [])
    else if stopLevel (s.head h) then (s, .stopped, [])
    else if s.library.swapPending then (s, .swapBusy, [])
    else (s.setEngine h (.composing (armJob s h c)), .accepted, [])

/-- ARM (R78). -/
def execArm (p : Port) (s : State) : Host.Outcome State Fault Refusal :=
  .next (receive (.arm p) p (onHead p armBody) s)

/-! ## The window of one pin (R83) -/

/-- The floor of a quotient by a positive divisor. -/
def floorDiv (n d : Int) : Int := n / d

/-- The ceiling of a quotient by a positive divisor. -/
def ceilDiv (n d : Int) : Int := -((-n) / d)

/-- The window between two breakpoints, each bound rounded outward (R83). -/
def interpolate (b c : Breakpoint) (x : Int) : Bounds :=
  { lower := (floorDiv ((b.lower : Int) * ((c.depth : Int) - b.depth) + ((c.lower : Int) - b.lower) * (x - b.depth))
      ((c.depth : Int) - b.depth)).toNat,
    upper := (ceilDiv ((b.upper : Int) * ((c.depth : Int) - b.depth) + ((c.upper : Int) - b.upper) * (x - b.depth))
      ((c.depth : Int) - b.depth)).toNat }

/-- The window at a depth not before breakpoint `b`: on the segment that holds it, or past the last one (R83). -/
def windowFrom (b : Breakpoint) (x : Int) : List Breakpoint → Bounds
  | [] => { lower := b.lower, upper := b.upper }
  | c :: cs => if x < c.depth then interpolate b c x else windowFrom c x cs

/-- The window of a pin at its own depth (R83). -/
def pinWindow (points : List Breakpoint) (x : Int) : Bounds :=
  match points with
  | [] => { lower := 0, upper := 0 }
  | b :: bs => if x < b.depth then { lower := 0, upper := b.upper } else windowFrom b x bs

/-! ## Lanes and totals (R84 to R87) -/

/-- The station count of a PRESS table (R82). -/
def stationCount (x : Site) (pitch : Nat) : Nat := (x.seatDepth + x.seatTolerance) / pitch + 1

/-- The profile of a pin in the active bank (R62). -/
def State.activeProfile (s : State) (p : Pin) : Option Profile :=
  profileAt s.library s.library.active (profilePlace p.pinType p.holeClass)

/-- The live pins among the `n` pins from an index on, with their indices (R1). -/
def State.livePins (s : State) (first : Nat) : Nat → List (Nat × Pin)
  | 0 => []
  | n + 1 =>
    if (s.pin first).live then (first, s.pin first) :: s.livePins (first + 1) n else s.livePins (first + 1) n

/-- The window of a live pin at a station (R83). A pin without a profile, which ends the composition, adds nothing. -/
def State.pinAt (s : State) (depth : Nat) (p : Pin) : Bounds :=
  match s.activeProfile p with
  | some q => pinWindow q.points ((depth : Int) - p.entryOffset)
  | none => { lower := 0, upper := 0 }

/-- The sum of the pin windows of a lane at a station (R85). -/
def State.laneSum (s : State) (depth : Nat) : List Pin → Bounds
  | [] => { lower := 0, upper := 0 }
  | p :: ps =>
    { lower := (s.pinAt depth p).lower + (State.laneSum s depth ps).lower,
      upper := (s.pinAt depth p).upper + (State.laneSum s depth ps).upper }

/-- The lane's sums widened by the guard, both rounded outward (R86). -/
def widen (guard : Nat) (b : Bounds) : Bounds :=
  { lower := b.lower * (1000 - guard) / 1000, upper := (b.upper * (1000 + guard) + 999) / 1000 }

/-- The pins of a lane. -/
def lanePins (lane : Nat) (pins : List Pin) : List Pin := pins.filter (fun p => decide (p.lane = lane))

/-- The lane entry of a PRESS table (R84 to R86). -/
def State.pressLane (s : State) (settings : Snapshot) (stations : Nat) (pins : List Pin) (lane : Nat) : EnvelopeLane :=
  if (lanePins lane pins).isEmpty then { used := false, bounds := none }
  else
    { used := true,
      bounds :=
        some ((List.range stations).map (fun k =>
          widen settings.guard (s.laneSum (k * settings.stationPitch) (lanePins lane pins)))) }

/-- The lane entry of a VERIFY table: its used field alone (R88). -/
def verifyLane (pins : List Pin) (lane : Nat) : EnvelopeLane :=
  { used := !(lanePins lane pins).isEmpty, bounds := none }

/-- The seat total: the seat forces of every live pin (R87). -/
def State.seatTotal (s : State) : List Pin → Nat
  | [] => 0
  | p :: ps => (((s.activeProfile p).map Profile.seatForce).getD 0) + s.seatTotal ps

/-- The verify threshold (R87). -/
def verifyThreshold (total percent : Nat) : Nat := (total * percent + 99) / 100

/-! ## The composition (5.3) -/

/-- Why a composition failed, with the station and lane fields of its notice (R90). -/
structure CompositionFailure where
  reason : ArmFailure
  station : Option Nat
  lane : Option Nat
deriving DecidableEq, Repr

/-- The walk over the live pins: the first that fails one of its two tests (R81). -/
def State.walkPins (s : State) (laneCount : Nat) : List (Nat × Pin) → Option CompositionFailure
  | [] => none
  | (i, p) :: ps =>
    if laneCount ≤ p.lane then some { reason := .toolInvalid, station := some i, lane := some p.lane }
    else if (s.activeProfile p).isNone then some { reason := .profileMissing, station := some i, lane := none }
    else s.walkPins laneCount ps

/-- The live pins of a job's site. -/
def State.jobPins (s : State) (job : Job) : List (Nat × Pin) :=
  s.livePins (s.site job.site).firstPin (s.site job.site).pinCount

/-- The checks of a composition (R81). -/
def State.compositionFault (s : State) (h : Head) (job : Job) : Option CompositionFailure :=
  match job.kind with
  | .press =>
    if Config.stationLimit < stationCount (s.site job.site) job.settings.stationPitch then
      some { reason := .stationRange, station := some (stationCount (s.site job.site) job.settings.stationPitch),
             lane := none }
    else s.walkPins (s.head h).tool.laneCount (s.jobPins job)
  | .verify => s.walkPins (s.head h).tool.laneCount (s.jobPins job)

/-- The Envelope Table of a composition whose checks pass (R76, R84 to R88). -/
def State.compose (s : State) (h : Head) (job : Job) : Envelope :=
  match job.kind with
  | .press =>
    { stationCount := some (stationCount (s.site job.site) job.settings.stationPitch),
      lanes := (List.range (s.head h).tool.laneCount).map
        (s.pressLane job.settings (stationCount (s.site job.site) job.settings.stationPitch)
          ((s.jobPins job).map Prod.snd)),
      seatTotal := s.seatTotal ((s.jobPins job).map Prod.snd), verifyThreshold := none }
  | .verify =>
    { stationCount := none,
      lanes := (List.range (s.head h).tool.laneCount).map (verifyLane ((s.jobPins job).map Prod.snd)),
      seatTotal := s.seatTotal ((s.jobPins job).map Prod.snd),
      verifyThreshold :=
        some (verifyThreshold (s.seatTotal ((s.jobPins job).map Prod.snd)) job.settings.verifyPercent) }

/-- The ARMED notice (R89). -/
def armedNotice (h : Head) (site : Nat) : Notice :=
  { kind := .armed, head := some h, site := some site, reason := none, station := none, lane := none }

/-- The ARM_FAILED notice (R90). -/
def armFailedNotice (h : Head) (site : Nat) (f : CompositionFailure) : Notice :=
  { kind := .armFailed, head := some h, site := some site, reason := some (armFailureCode f.reason),
    station := f.station, lane := f.lane }

/-- The failure of an abandoned composition (R91, R92). -/
def abandoned : CompositionFailure := { reason := .aborted, station := none, lane := none }

/-- A composition ends without a table: the engine enters IDLE, the claim is kept, ARM_FAILED is posted (R90, R91). -/
def State.failComposition (s : State) (h : Head) (job : Job) (f : CompositionFailure) : State :=
  (s.toIdle h).postHead h (armFailedNotice h job.site f)

/-- The completion of a composition in success (R89) or in failure (R90). An engine that is not COMPOSING has no
completion to come. -/
def State.completeComposition (s : State) (h : Head) : State :=
  match (s.head h).engine with
  | .composing job =>
    match s.compositionFault h job with
    | some f => (s.failComposition h job f).trySwap
    | none => (s.setEngine h (.armed job (s.compose h job))).postHead h (armedNotice h job.site)
  | .idle => s
  | .armed _ _ => s
  | .stroke _ _ _ _ => s

/-- COMPOSITION_COMPLETION (R80). -/
def execCompositionCompletion (h : Head) (s : State) : Host.Outcome State Fault Refusal :=
  .next (s.completeComposition h)

end Sys2Proof.Machine
end

