-- ==== Sys2Proof/Machine/Records.lean ====
section
/-! DEFINITION. The Record Store: the Press Record and the pin verdicts that a verdict event writes (9.2 to 9.4), what
editing empties (R9), READ_RECORD, READ_PINS and READ_SITES. -/

namespace Sys2Proof.Machine

/-! ## The pins of a site -/

/-- The part of a site's pin range that has verdicts: its first index and how many of its pins lie in 0..4095. -/
def pinSpan (x : Site) : Nat × Nat := (x.firstPin, min x.pinCount (Config.pinCount - x.firstPin))

/-- Whether two spans share an index; an empty one shares none. -/
def spansMeet (a b : Nat × Nat) : Bool :=
  decide (0 < a.2 ∧ 0 < b.2 ∧ a.1 < b.1 + b.2 ∧ b.1 < a.1 + a.2)

/-! ## Writing a record (R157, R158) -/

/-- Whether a lane is failed: its excursion count is above the snapshot's allowance (R111). -/
def laneFailed (job : Job) (l : LaneTally) : Bool := decide (job.settings.excursionAllowance < l.excursions)

/-- Whether any lane of a stroke is failed. -/
def anyFailed (job : Job) (ctx : Stroke) : Bool := ctx.lanes.any (laneFailed job)

/-- The lane verdict (R157). -/
def laneVerdict (used failed offending : Bool) : LaneVerdict :=
  if !used then .unused else if failed || offending then .fail else .pass

/-- The lane summaries of a record, one for each installed lane from `lane` on (R157, R158). -/
def laneSummaries (job : Job) (offending : List Nat) : Nat → List EnvelopeLane → List LaneTally → List LaneSummary
  | lane, e :: es, l :: ls =>
    { used := e.used, peak := l.peak, excursions := l.excursions, first := l.first,
      verdict := laneVerdict e.used (laneFailed job l) (offending.contains lane) } ::
      laneSummaries job offending (lane + 1) es ls
  | _, [], _ => []
  | _, _ :: _, [] => []

/-- The Press Record that the verdict event builds (R158). -/
def buildRecord (mapGeneration : Half) (h : Head) (job : Job) (env : Envelope) (ctx : Stroke) (o : StrokeOutcome) :
    PressRecord :=
  { head := some h, kind := some job.kind, outcome := o, bankGeneration := job.bankGeneration,
    mapGeneration := mapGeneration, contact := ctx.contact, seatedDepth := ctx.seatedDepth, peakTotal := ctx.peakTotal,
    maxDepth := ctx.maxDepth, stations := ctx.stationIndex, coarse := ctx.coarse, faultLane := ctx.faultLane,
    faultStation := ctx.faultStation, lanes := laneSummaries job ctx.offending 0 env.lanes ctx.lanes }

/-! ## Pin verdicts (R160, R161) -/

/-- Whether the lane of a pin is failed in a stroke. -/
def pinLaneFailed (job : Job) (ctx : Stroke) (p : Pin) : Bool :=
  match ctx.lanes[p.lane]? with
  | some l => laneFailed job l
  | none => false

/-- The verdict of a pin after a stroke cut short: by its entry offset once contact was made (R160). -/
def cutShortVerdict (ctx : Stroke) (p : Pin) : PinVerdict :=
  match ctx.contact, ctx.maxDepth with
  | some _, some d => if (p.entryOffset : Int) ≤ d then .partialIn else .notPressed
  | some _, none => .notPressed
  | none, _ => .notPressed

/-- The verdict of a live pin of a PRESS stroke (R160). -/
def pressVerdict (job : Job) (ctx : Stroke) (o : StrokeOutcome) (p : Pin) (before : PinVerdict) : PinVerdict :=
  match o with
  | .seatedPass => .pass
  | .windowFail =>
    if pinLaneFailed job ctx p then .laneFail else if ctx.seatedDepth.isSome then .pass else .notSeated
  | .earlySeat => if pinLaneFailed job ctx p then .laneFail else .notSeated
  | .notSeated => if pinLaneFailed job ctx p then .laneFail else .notSeated
  | .overforce =>
    if ctx.offending.contains p.lane then .overforce else if pinLaneFailed job ctx p then .laneFail else .notSeated
  | .noContact => .notPressed
  | .aborted => cutShortVerdict ctx p
  | .linkLost => cutShortVerdict ctx p
  | .sensorFault => cutShortVerdict ctx p
  | .verifyPass => before
  | .verifyFail => before
  | .noOutcome => before

/-- The verdict of a live pin of a VERIFY stroke (R161). -/
def verifyVerdict (ctx : Stroke) (o : StrokeOutcome) (p : Pin) (before : PinVerdict) : PinVerdict :=
  match o with
  | .verifyFail => .notSeated
  | .overforce => if ctx.offending.contains p.lane then .overforce else .notSeated
  | .verifyPass => before
  | .noContact => before
  | .aborted => before
  | .linkLost => before
  | .sensorFault => before
  | .seatedPass => before
  | .windowFail => before
  | .earlySeat => before
  | .notSeated => before
  | .noOutcome => before

/-- The verdict that a verdict event gives a pin: R160 for a PRESS stroke, R161 for a VERIFY stroke. -/
def pinVerdict (job : Job) (ctx : Stroke) (o : StrokeOutcome) (p : Pin) (before : PinVerdict) : PinVerdict :=
  match job.kind with
  | .press => if p.live then pressVerdict job ctx o p before else .empty
  | .verify => if p.live then verifyVerdict ctx o p before else before

/-- Write a site's Press Record. -/
def State.setRecord (s : State) (i : Nat) (r : PressRecord) : State :=
  { s with records := Table.set PressRecord.emptyForm s.records i r }

/-- Write the verdicts of the pins of a site, those whose indices lie in 0..4095. -/
def State.writeVerdicts (s : State) (x : Site) (f : Nat → PinVerdict → PinVerdict) : State :=
  { s with verdicts := Table.update PinVerdict.noVerdict s.verdicts (pinSpan x).1 (pinSpan x).2 f }

/-- The record and the verdicts of a stroke, written whole in its verdict event, which overtakes a READ_PINS of the site
(R158, R165). -/
def State.writeStroke (s : State) (h : Head) (job : Job) (env : Envelope) (ctx : Stroke) (o : StrokeOutcome) : State :=
  ((s.setRecord job.site (buildRecord s.map.generation h job env ctx o)).writeVerdicts (s.site job.site)
    (fun i before => pinVerdict job ctx o (s.pin i) before)).overtakeTransfer job.site

/-! ## What editing empties (R9) -/

/-- The defined sites with their spans, in ascending index order. -/
def State.definedSpans (s : State) : List (Nat × (Nat × Nat)) :=
  ((List.range Config.siteCount).filter (fun i => siteDefined (s.site i))).map (fun i => (i, pinSpan (s.site i)))

/-- The sites reached from a frontier of spans, among those not yet reached: first those that meet the frontier, then
those that meet them, and so on. -/
def reachFrom : Nat → List (Nat × Nat) → List (Nat × (Nat × Nat)) → List Nat
  | 0, _, _ => []
  | fuel + 1, frontier, rest =>
    match rest.partition (fun e => frontier.any (spansMeet e.2)) with
    | ([], _) => []
    | (hit :: hits, others) => (hit :: hits).map Prod.fst ++ reachFrom fuel ((hit :: hits).map Prod.snd) others

/-- The defined sites that an invalidation of a span of pins reaches, through shared pins (R9). -/
def State.reached (s : State) (span : Nat × Nat) : List Nat :=
  reachFrom Config.siteCount [span] s.definedSpans

/-- Empty a site's record and set the verdicts of its pins to NONE; a READ_PINS of the site is overtaken (R9, R165). -/
def State.invalidateSite (s : State) (i : Nat) : State :=
  ((s.setRecord i PressRecord.emptyForm).writeVerdicts (s.site i) (fun _ _ => .noVerdict)).overtakeTransfer i

/-- Set the verdicts of a span of pins to NONE and carry the invalidation to every site those pins reach (R9). -/
def State.invalidateSpan (s : State) (span : Nat × Nat) : State :=
  (s.reached span).foldl State.invalidateSite
    { s with verdicts := Table.update PinVerdict.noVerdict s.verdicts span.1 span.2 (fun _ _ => .noVerdict) }

/-! ## Readout (9.6, 9.7) -/

/-- READ_RECORD's body (R162). -/
def readRecordBody (site : Byte) (s : State) : Answer :=
  if Config.siteCount ≤ site.toNat then (s, .range, [])
  else (s, .ok, recordBytes site.toNat (s.record site.toNat))

/-- READ_RECORD (R162). -/
def execReadRecord (p : Port) (site : Byte) (s : State) : Host.Outcome State Fault Refusal :=
  .next (receive (.readRecord p site) p (readRecordBody site) s)

/-- The number of entries that a count field asks for: 0 asks for the most (R164, R166). -/
def askedCount (count : Byte) (most : Nat) : Nat := if count.toNat = 0 then most else count.toNat

/-- The entries a READ_PINS can deliver from a position: what is left of the site, and of the table (R164). -/
def pinsLeft (x : Site) (first : Nat) : Nat :=
  min (x.pinCount - first) (Config.pinCount - (x.firstPin + first))

/-- READ_PINS taken by the Record Store (R164). -/
def readPinsBody (p : Port) (site : Byte) (first : Half) (count : Byte) (s : State) : State :=
  if Config.siteCount ≤ site.toNat then s.answer p 0x40 .range []
  else if (s.site site.toNat).pinCount ≤ first.toNat then s.answer p 0x40 .range []
  else if Config.pinCount ≤ (s.site site.toNat).firstPin + first.toNat then s.answer p 0x40 .range []
  else
    s.openTransfer p (.pins site.toNat first.toNat)
      (min (askedCount count 256) (pinsLeft (s.site site.toNat) first.toNat))
      (decide (pinsLeft (s.site site.toNat) first.toNat < askedCount count 256))

/-- READ_PINS (R164). -/
def execReadPins (p : Port) (site : Byte) (first : Half) (count : Byte) (s : State) :
    Host.Outcome State Fault Refusal :=
  .next (judgeFrame (.readPins p site first count) p (readPinsBody p site first count) s)

/-- READ_SITES taken by the Record Store; a count above 64 reaches past index 63 and is clamped (R166). -/
def readSitesBody (p : Port) (first count : Byte) (s : State) : State :=
  if Config.siteCount ≤ first.toNat then s.answer p 0x41 .range []
  else
    s.openTransfer p (.sites first.toNat)
      (min (askedCount count Config.siteCount) (Config.siteCount - first.toNat))
      (decide (Config.siteCount - first.toNat < askedCount count Config.siteCount))

/-- READ_SITES (R166). -/
def execReadSites (p : Port) (first count : Byte) (s : State) : Host.Outcome State Fault Refusal :=
  .next (judgeFrame (.readSites p first count) p (readSitesBody p first count) s)

end Sys2Proof.Machine
end

