-- ==== Sys2Proof/Machine/Watch.lean ====
section
/-! DEFINITION. The Watch Unit (chapter 10). -/

namespace Sys2Proof.Machine

/-! ## Filling (10.3, 10.4) -/

/-- Whether a match site takes strokes on a site (R170). -/
def siteMatches (m : MatchSite) (site : Nat) : Bool :=
  match m with
  | .any => true
  | .site i => decide (i = site)

/-- Whether a lane of an Envelope Table is used (R84). -/
def laneUsed (env : Envelope) (lane : Nat) : Bool :=
  match env.lanes[lane]? with
  | some e => e.used
  | none => false

/-- An ARMED slot whose match site and match lane fit becomes FILLING at the contact of a PRESS stroke; every other slot
keeps its state (R170). -/
def startFilling (h : Head) (job : Job) (env : Envelope) (w : WatchSlot) : WatchSlot :=
  match w.state, w.matchSite, w.matchLane with
  | .armed, some m, some lane =>
    if siteMatches m job.site && laneUsed env lane then
      { w with state := .filling, source := some { head := h, site := job.site } }
    else w
  | _, _, _ => w

/-- The slots at the contact of a stroke; a VERIFY stroke starts no filling (R170). -/
def State.watchContact (s : State) (h : Head) (job : Job) (env : Envelope) : State :=
  match job.kind with
  | .press => { s with slot0 := startFilling h job env s.slot0, slot1 := startFilling h job env s.slot1 }
  | .verify => s

/-- Whether a slot is FILLING from the stroke of a head (R171). -/
def fillingFrom (h : Head) (w : WatchSlot) : Bool :=
  decide (w.state = .filling) && (match w.source with
    | some src => decide (src.head = h)
    | none => false)

/-- The window of a lane at a station, in a complete PRESS table (R76). -/
def boundsAt (env : Envelope) (lane station : Nat) : Option Bounds :=
  (env.lanes[lane]?).bind (fun e => e.bounds.bind (fun bs => bs[station]?))

/-- The entries that a frame's stations append for a lane, in ascending order (R171). -/
def traceEntries (env : Envelope) (lane : Nat) (displacement : Int) (forces : List Nat) (stations : List Nat) :
    List TraceEntry :=
  stations.filterMap (fun k => (boundsAt env lane k).map (fun b =>
    { station := k, displacement := displacement, measured := (forces[lane]?).getD 0, lower := b.lower,
      upper := b.upper }))

/-- Append a frame's entries to a slot that fills from the head (R171). -/
def capture (h : Head) (env : Envelope) (displacement : Int) (forces : List Nat) (stations : List Nat)
    (w : WatchSlot) : WatchSlot :=
  match fillingFrom h w, w.matchLane with
  | true, some lane => { w with trace := w.trace ++ traceEntries env lane displacement forces stations }
  | _, _ => w

/-- Hand the evaluation of a frame's stations to the slots (R118, R171). -/
def State.watchStations (s : State) (h : Head) (env : Envelope) (displacement : Int) (forces : List Nat)
    (stations : List Nat) : State :=
  { s with slot0 := capture h env displacement forces stations s.slot0,
           slot1 := capture h env displacement forces stations s.slot1 }

/-- The notice of a slot becoming FULL (R172, 12.4). -/
def traceFull (k : Nat) (w : WatchSlot) (o : StrokeOutcome) : Notice :=
  { kind := .traceFull, head := w.source.map WatchSource.head, site := w.source.map WatchSource.site,
    reason := some (outcomeCode o), station := some k, lane := w.matchLane }

/-- A slot that fills from the head becomes FULL with the stroke's outcome, and its notice goes to the Cell Port (R172). -/
def State.finishSlot (s : State) (h : Head) (o : StrokeOutcome) (k : Nat) : State :=
  if fillingFrom h (s.slot k) then
    (s.setSlot k { s.slot k with state := .full, outcome := some o }).postTo .cell (traceFull k (s.slot k) o)
  else s

/-- Finish every slot that fills from a stroke, slot 0 first (R127, R172). -/
def State.finishSlots (s : State) (h : Head) (o : StrokeOutcome) : State :=
  (s.finishSlot h o 0).finishSlot h o 1

/-! ## Requests (10.2, 10.5) -/

/-- The code of a slot state in a reply, a free value (log entry 3). -/
def watchStateByte (w : WatchState) : Byte := Config.watchStateCode (watchStatePlace w)

/-- The code of a match site (12.2). -/
def matchSiteCode : MatchSite → Nat
  | .any => 255
  | .site i => i

/-- ARM_WATCH's body (R169). -/
def armWatchBody (slot site lane : Byte) (s : State) : Answer :=
  match matchSiteOf site with
  | none => (s, .range, [])
  | some m =>
    if Config.slotCount ≤ slot.toNat ∨ Config.laneLimit ≤ lane.toNat then (s, .range, [])
    else if (s.slot slot.toNat).state = .filling then (s, .busy, [])
    else
      (s.setSlot slot.toNat
        { state := .armed, matchSite := some m, matchLane := some lane.toNat, source := none, outcome := none,
          trace := [] }, .ok,
        [slot, watchStateByte .armed] ++ u8 (matchSiteCode m) ++ [lane])

/-- ARM_WATCH (R169). -/
def execArmWatch (p : Port) (slot site lane : Byte) (s : State) : Host.Outcome State Fault Refusal :=
  .next (receive (.armWatch p slot site lane) p (armWatchBody slot site lane) s)

/-- DISARM_WATCH's body (R169). -/
def disarmWatchBody (slot : Byte) (s : State) : Answer :=
  if Config.slotCount ≤ slot.toNat then (s, .range, [])
  else if (s.slot slot.toNat).state = .filling then (s, .busy, [])
  else (s.setSlot slot.toNat WatchSlot.clear, .ok, [slot, watchStateByte .empty])

/-- DISARM_WATCH (R169). -/
def execDisarmWatch (p : Port) (slot : Byte) (s : State) : Host.Outcome State Fault Refusal :=
  .next (receive (.disarmWatch p slot) p (disarmWatchBody slot) s)

/-- READ_TRACE taken by the Watch Unit (R173). -/
def readTraceBody (p : Port) (slot : Byte) (s : State) : State :=
  if Config.slotCount ≤ slot.toNat then s.answer p 0x4A .range []
  else
    match (s.slot slot.toNat).state with
    | .filling => s.answer p 0x4A .busy []
    | .empty => s.answer p 0x4A .refusedState []
    | .armed => s.answer p 0x4A .refusedState []
    | .full => s.openTransfer p (.trace slot.toNat) (s.slot slot.toNat).trace.length false

/-- READ_TRACE (R173). -/
def execReadTrace (p : Port) (slot : Byte) (s : State) : Host.Outcome State Fault Refusal :=
  .next (judgeFrame (.readTrace p slot) p (readTraceBody p slot) s)

end Sys2Proof.Machine
end

