-- ==== Sys2Proof/Machine/Stroke.lean ====
section
/-! DEFINITION. The Stroke Engine's shared operations (chapter 7): measuring, the hard limits, the verdict event, faults,
RETRACT and the end of a stroke. -/

namespace Sys2Proof.Machine

/-! ## Measured force (6.5, 6.6) -/

/-- The tare zero of a lane from the sum of its eight values (R106). -/
def tareZero (sum : Int) : Int := floorDiv (sum + 4) 8

/-- The measured force of a lane (R108). -/
def measured (gain : Nat) (zero raw : Int) : Nat := (raw - zero).toNat * gain / 256

/-- The measured forces of the installed lanes, lane 0 first (R108). -/
def measureLanes : List LaneSetup → List Int → List Int → List Nat
  | l :: ls, z :: zs, r :: rs => measured l.gain z r :: measureLanes ls zs rs
  | [], _, _ => []
  | _ :: _, [], _ => []
  | _ :: _, _ :: _, [] => []

/-- The tare sums with a tare frame's raw values added (R106). -/
def addSums : List Int → List Int → List Int
  | s :: ss, r :: rs => (s + r) :: addSums ss rs
  | [], _ => []
  | s :: ss, [] => s :: ss

/-- Whether a frame is a sensor fault for a tool (R101). -/
def sensorFault (tool : Tool) (f : Sample) : Bool := f.encoderFault || decide (f.laneCount ≠ tool.laneCount)

/-- The running summaries after a measured frame (R122). -/
def raisePeaks : List LaneTally → List Nat → List LaneTally
  | l :: ls, f :: fs => { l with peak := max l.peak f } :: raisePeaks ls fs
  | [], _ => []
  | l :: ls, [] => l :: ls

/-- The running summaries after a measured frame: lane peaks, peak total, and the greatest d_rel once contact has been
made (R122). -/
def summarize (ctx : Stroke) (f : Sample) (forces : List Nat) : Stroke :=
  { ctx with
      lanes := raisePeaks ctx.lanes forces, peakTotal := max ctx.peakTotal forces.sum,
      maxDepth :=
        match ctx.contact, ctx.maxDepth with
        | some c, some d => some (max d (f.displacement - c))
        | some c, none => some (f.displacement - c)
        | none, d => d }

/-! ## Hard limits (7.4) -/

/-- The lanes that a breach marks (R116). -/
structure Breach where
  offending : List Nat
  faultLane : Option Nat
deriving DecidableEq, Repr

/-- The installed lanes whose saturation flag counts, in ascending order (R102). -/
def saturatedLanes (tool : Tool) (f : Sample) : List Nat :=
  (List.range tool.laneCount).filter (fun k => f.saturation.getLsbD k)

/-- The breach of a frame with a saturated lane: every installed lane offends, the lowest saturated one is the fault
lane (R116). -/
def saturationBreach (tool : Tool) (f : Sample) : Option Breach :=
  match saturatedLanes tool f with
  | [] => none
  | k :: _ => some { offending := List.range tool.laneCount, faultLane := some k }

/-- The lanes from `lane` on whose measured force is above their ceiling, in ascending order (R116). -/
def lanesOver : Nat → List LaneSetup → List Nat → List Nat
  | lane, l :: ls, f :: fs => if l.ceiling < f then lane :: lanesOver (lane + 1) ls fs else lanesOver (lane + 1) ls fs
  | _, [], _ => []
  | _, _ :: _, [] => []

/-- The hard limits of a measured frame (R116). -/
def hardLimits (tool : Tool) (settings : Snapshot) (f : Sample) (forces : List Nat) : Option Breach :=
  match saturationBreach tool f with
  | some b => some b
  | none =>
    if settings.headCeiling < forces.sum then
      some { offending := List.range tool.laneCount, faultLane := (lanesOver 0 tool.lanes forces).head? }
    else
      match lanesOver 0 tool.lanes forces with
      | [] => none
      | k :: ks => some { offending := k :: ks, faultLane := some k }

/-! ## The verdict event (7.8) -/

/-- The verdict notice: STROKE_FAULT with the fault station and lane, or STROKE_VERDICT (R127). -/
def verdictNotice (h : Head) (job : Job) (ctx : Stroke) (o : StrokeOutcome) (isFault : Bool) : Notice :=
  { kind := if isFault then .strokeFault else .strokeVerdict, head := some h, site := some job.site,
    reason := some (outcomeCode o), station := if isFault then ctx.faultStation else none,
    lane := if isFault then ctx.faultLane else none }

/-- The verdict event, up to the state the engine enters: the record and verdicts, the verdict notice, the watch slots
(R127). -/
def State.verdictEvent (s : State) (h : Head) (job : Job) (env : Envelope) (ctx : Stroke) (o : StrokeOutcome)
    (isFault : Bool) : State :=
  ((s.writeStroke h job env ctx o).postHead h (verdictNotice h job ctx o isFault)).finishSlots h o

/-- The retract target on entering RETRACT (R128). -/
def retractTarget (job : Job) (ctx : Stroke) : Option Int :=
  match ctx.contact with
  | some c => some (c - job.settings.retractClearance)
  | none => ctx.startDisplacement

/-- A stroke reaches an outcome that is no fault: the verdict event, then RETRACT toward its target (R127, R128). -/
def State.conclude (s : State) (h : Head) (job : Job) (env : Envelope) (ctx : Stroke) (o : StrokeOutcome) : State :=
  (s.verdictEvent h job env ctx o false).setEngine h
    (.stroke .retract job env { ctx with outcome := some o, retractTarget := retractTarget job ctx })

/-- The fault station: the last station evaluated, absent when there is none (R132). -/
def faultStationOf (ctx : Stroke) : Option Nat := if ctx.stationIndex = 0 then none else some (ctx.stationIndex - 1)

/-- The stroke context of a fault (R116, R132). -/
def faultContext (ctx : Stroke) (o : StrokeOutcome) (b : Breach) : Stroke :=
  { ctx with outcome := some o, offending := b.offending, faultLane := b.faultLane, faultStation := faultStationOf ctx }

/-- The lanes that a fault other than an overforce marks: none (R132). -/
def noBreach : Breach := { offending := [], faultLane := none }

/-- A fault before the verdict: the verdict event, STOP asserted, the engine FAULTED, the silence timer stopped (R132). -/
def State.faultStroke (s : State) (h : Head) (job : Job) (env : Envelope) (ctx : Stroke) (o : StrokeOutcome)
    (b : Breach) : State :=
  (((s.verdictEvent h job env (faultContext ctx o b) o true).assertStop h).setEngine h
    (.stroke .faulted job env (faultContext ctx o b))).setSilence h none

/-- The notice of a late fault, with the fault as its reason (R133). -/
def lateFaultNotice (h : Head) (job : Job) (o : StrokeOutcome) : Notice :=
  { kind := .strokeFault, head := some h, site := some job.site, reason := some (outcomeCode o), station := none,
    lane := none }

/-- A fault in RETRACT: STOP, FAULTED and the notice; the recorded outcome stays (R133). -/
def State.lateFault (s : State) (h : Head) (job : Job) (env : Envelope) (ctx : Stroke) (o : StrokeOutcome) : State :=
  (((s.assertStop h).setEngine h (.stroke .faulted job env ctx)).setSilence h none).postHead h (lateFaultNotice h job o)

/-! ## The end of a stroke (7.9) -/

/-- The site's state at the end of a stroke, from the outcome and the claim kind; none where the claim is kept and the
site returns to CLAIMED (R131). `cleared` is an end by HEAD_CLEAR or RESTART, `back` the state the prior state names. -/
def siteAfter (k : Kind) (o : StrokeOutcome) (contact cleared : Bool) (back : SiteState) : Option SiteState :=
  match o with
  | .seatedPass => some .seated
  | .verifyPass => some .seated
  | .windowFail => some .rejected
  | .earlySeat => some .rejected
  | .notSeated => some .rejected
  | .verifyFail => some .rejected
  | .overforce => some .rejected
  | .noContact => some back
  | .aborted =>
    if contact then some (match k with | .press => .partialIn | .verify => .seated)
    else if cleared then some back else none
  | .linkLost => if contact then some (match k with | .press => .partialIn | .verify => .seated) else some back
  | .sensorFault => if contact then some (match k with | .press => .partialIn | .verify => .seated) else some back
  | .noOutcome => some back

/-- The outcome of a stroke whose verdict has been reached. -/
def recordedOutcome (ctx : Stroke) : StrokeOutcome := ctx.outcome.getD .noOutcome

/-- The STROKE_DONE notice, with the site's new state in its lane field (R130, 12.4). -/
def strokeDone (h : Head) (job : Job) (o : StrokeOutcome) (st : SiteState) : Notice :=
  { kind := .strokeDone, head := some h, site := some job.site, reason := some (outcomeCode o), station := none,
    lane := some (siteStateCode st) }

/-- The site and claim at the end of a stroke: released in the state of R131, or CLAIMED with the claim kept (R130). -/
def State.settleSite (s : State) (h : Head) (job : Job) (st : Option SiteState) : State :=
  match st with
  | some x => s.releaseSite h job.site x
  | none => s.setSiteState job.site .claimed

/-- The end of a stroke: site and claim, IDLE, STROKE_DONE, and a pending swap (R130, R135). -/
def State.endStroke (s : State) (h : Head) (job : Job) (ctx : Stroke) (o : StrokeOutcome) (cleared : Bool) : State :=
  ((((s.settleSite h job (siteAfter job.kind o ctx.contact.isSome cleared (returnState (s.site job.site)))).toIdle
    h).postHead h (strokeDone h job o
      ((siteAfter job.kind o ctx.contact.isSome cleared (returnState (s.site job.site))).getD .claimed))).trySwap)

/-! ## ABORT in a stroke (7.11) -/

/-- ABORT of a stroke in APPROACH, ENGAGE, HELD or DWELL: outcome ABORTED, then RETRACT (R136). -/
def State.abortStroke (s : State) (h : Head) (job : Job) (env : Envelope) (ctx : Stroke) : State :=
  s.conclude h job env ctx .aborted

end Sys2Proof.Machine
end

