-- ==== Sys2Proof/Machine/Frames.lean ====
section
/-! DEFINITION. Sample frames: acceptance by the Sensor Link Receiver (6.2), and what the Stroke Engine makes of a frame in
each state (7.3 to 7.9, 7.12). -/

namespace Sys2Proof.Machine

/-- Put a stroke into a state it is judged in, held or not (R126). -/
def State.stay (s : State) (h : Head) (held : Bool) (l : Live) (job : Job) (env : Envelope) (ctx : Stroke) : State :=
  s.setEngine h (.stroke (phaseOf held l) job env ctx)

/-! ## Stations (R118, R119) -/

/-- The station index after a frame at `d`: every station from the index on that lies at or above it, below the station
count (R118). -/
def stationReach (index count pitch : Nat) (d : Int) : Nat :=
  if d < 0 then index else max index (min count (d.toNat / pitch + 1))

/-- The stations that a frame at `d` evaluates, in ascending order (R118). -/
def stationsReached (index count pitch : Nat) (d : Int) : List Nat :=
  List.range' index (stationReach index count pitch d - index)

/-- Whether a force is outside a window (R119). -/
def outside (b : Bounds) (force : Nat) : Bool := decide (force < b.lower ∨ b.upper < force)

/-- The stations among those of a frame at which a lane has an excursion; an unused lane has none (R119). -/
def laneExcursions (e : EnvelopeLane) (force : Nat) (stations : List Nat) : List Nat :=
  match e.used, e.bounds with
  | true, some bs =>
    stations.filter (fun k =>
      match bs[k]? with
      | some b => outside b force
      | none => false)
  | true, none => []
  | false, _ => []

/-- The tally of a lane with a frame's excursions added (R119). -/
def addExcursions (l : LaneTally) (ks : List Nat) : LaneTally :=
  { l with excursions := l.excursions + ks.length, first := l.first.or ks.head? }

/-- The tallies of every lane after a frame's stations (R119). -/
def judgeLanes (stations : List Nat) : List EnvelopeLane → List Nat → List LaneTally → List LaneTally
  | e :: es, f :: fs, l :: ls => addExcursions l (laneExcursions e f stations) :: judgeLanes stations es fs ls
  | [], _, ls => ls
  | _ :: _, [], ls => ls
  | _ :: _, _ :: _, [] => []

/-- Whether a frame's stations produce at least one excursion on any lane (R119). -/
def anyExcursion (stations : List Nat) : List EnvelopeLane → List Nat → Bool
  | e :: es, f :: fs => !(laneExcursions e f stations).isEmpty || anyExcursion stations es fs
  | [], _ => false
  | _ :: _, [] => false

/-- The stations of a frame in a stroke (R118). -/
def frameStations (job : Job) (env : Envelope) (ctx : Stroke) (f : Sample) : List Nat :=
  stationsReached ctx.stationIndex (env.stationCount.getD 0) job.settings.stationPitch
    (f.displacement - ctx.contact.getD 0)

/-- The stroke context after a frame's stations (R118, R119). -/
def evaluateStations (job : Job) (env : Envelope) (ctx : Stroke) (f : Sample) (forces : List Nat) : Stroke :=
  { ctx with
      stationIndex := ctx.stationIndex + (frameStations job env ctx f).length,
      coarse := ctx.coarse + ((frameStations job env ctx f).length - 1),
      lanes := judgeLanes (frameStations job env ctx f) env.lanes forces ctx.lanes }

/-- What the Head Line Unit and the Watch Unit are told of a frame's stations (R118, R119, R145, R171). -/
def State.tellStations (s : State) (h : Head) (job : Job) (env : Envelope) (ctx : Stroke) (f : Sample)
    (forces : List Nat) : State :=
  let told := if (frameStations job env ctx f).isEmpty then s else s.mark h .station
  let marked := if anyExcursion (frameStations job env ctx f) env.lanes forces then told.mark h .excursion else told
  marked.watchStations h env f.displacement forces (frameStations job env ctx f)

/-! ## ENGAGE (7.5, 7.12) -/

/-- What the seat test makes of a frame (R121). -/
inductive SeatResult where
  | none
  | early
  | seated
  | notSeated
deriving DecidableEq, Repr

/-- The seat test (R121). -/
def seatTest (x : Site) (seatTotal total : Nat) (d : Int) : SeatResult :=
  if (x.seatDepth : Int) + x.seatTolerance < d then .notSeated
  else if total < seatTotal then .none
  else if d < (x.seatDepth : Int) - x.seatTolerance then .early
  else .seated

/-- The outcome of a seated stroke, at the dwell's expiry or at a seat with no dwell (R125). -/
def seatedOutcome (job : Job) (ctx : Stroke) : StrokeOutcome := if anyFailed job ctx then .windowFail else .seatedPass

/-- The connector is seated: DWELL with the whole dwell to run, or the outcome at once when DWELL is 0 (R123, R126). -/
def State.seat (s : State) (h : Head) (held : Bool) (job : Job) (env : Envelope) (ctx : Stroke) (d : Int) : State :=
  if job.settings.dwell = 0 then
    s.conclude h job env { ctx with seatedDepth := some d }
      (seatedOutcome job { ctx with seatedDepth := some d })
  else
    s.stay h held .dwell job env
      { ctx with seatedDepth := some d, remainingDwell := job.settings.dwell * Config.microsPerMilli }

/-- The excursion stop and the seat test of a PRESS stroke, after its stations (R120, R121). -/
def State.pressEnd (s : State) (h : Head) (held : Bool) (job : Job) (env : Envelope) (ctx : Stroke) (f : Sample)
    (forces : List Nat) : State :=
  if job.settings.failAction = .stop ∧ anyFailed job ctx then s.conclude h job env ctx .windowFail
  else
    match seatTest (s.site job.site) env.seatTotal forces.sum (f.displacement - ctx.contact.getD 0) with
    | .none => s.stay h held .engage job env ctx
    | .early => s.conclude h job env ctx .earlySeat
    | .notSeated => s.conclude h job env ctx .notSeated
    | .seated => s.seat h held job env ctx (f.displacement - ctx.contact.getD 0)

/-- A VERIFY stroke's travel and threshold (R138). -/
def State.verifyEnd (s : State) (h : Head) (held : Bool) (job : Job) (env : Envelope) (ctx : Stroke) (f : Sample)
    (forces : List Nat) : State :=
  if (job.settings.verifyTravel : Int) < f.displacement - ctx.contact.getD 0 then s.conclude h job env ctx .verifyFail
  else if env.verifyThreshold.getD 0 ≤ forces.sum then s.conclude h job env ctx .verifyPass
  else s.stay h held .engage job env ctx

/-- An ENGAGE frame after its hard limits: steps 2 to 4 of R117 for a PRESS stroke, R138 for a VERIFY stroke. -/
def State.engageFrame (s : State) (h : Head) (held : Bool) (job : Job) (env : Envelope) (ctx : Stroke) (f : Sample)
    (forces : List Nat) : State :=
  match job.kind with
  | .press =>
    (s.tellStations h job env ctx f forces).pressEnd h held job env (evaluateStations job env ctx f forces) f forces
  | .verify => s.verifyEnd h held job env ctx f forces

/-! ## APPROACH (7.3) -/

/-- The stroke context after a tare frame's raw values; at the eighth the zeros are set (R106, R113). -/
def addTare (ctx : Stroke) (f : Sample) : Stroke :=
  { ctx with
      tareSums := addSums ctx.tareSums f.raws, tareCount := ctx.tareCount + 1,
      tareZeros := if ctx.tareCount + 1 = 8 then some ((addSums ctx.tareSums f.raws).map tareZero) else ctx.tareZeros }

/-- A tare frame (R113). -/
def State.tareFrame (s : State) (h : Head) (held : Bool) (job : Job) (env : Envelope) (ctx : Stroke) (f : Sample) :
    State :=
  match saturationBreach (s.head h).tool f with
  | some b => s.faultStroke h job env (addTare ctx f) .overforce b
  | none =>
    if (s.site job.site).contactLimit < f.displacement then s.conclude h job env (addTare ctx f) .noContact
    else s.stay h held .approach job env (addTare ctx f)

/-- The stroke context of the contact frame (R115). -/
def contactContext (ctx : Stroke) (f : Sample) : Stroke :=
  { ctx with contact := some f.displacement, maxDepth := some 0 }

/-- The contact frame: contact and d_rel 0, the MARK pulse, the watch slots, and the frame judged as an ENGAGE frame
(R115). -/
def State.contactFrame (s : State) (h : Head) (held : Bool) (job : Job) (env : Envelope) (ctx : Stroke) (f : Sample)
    (forces : List Nat) : State :=
  ((s.mark h .contact).watchContact h job env).engageFrame h held job env (contactContext ctx f) f forces

/-- An APPROACH frame after its hard limits: contact, then the contact limit (R114). -/
def State.approachFrame (s : State) (h : Head) (held : Bool) (job : Job) (env : Envelope) (ctx : Stroke) (f : Sample)
    (forces : List Nat) : State :=
  if job.settings.contactThreshold ≤ forces.sum then s.contactFrame h held job env ctx f forces
  else if (s.site job.site).contactLimit < f.displacement then s.conclude h job env ctx .noContact
  else s.stay h held .approach job env ctx

/-! ## A frame in each state -/

/-- The measured forces of a frame against a stroke's tare zeros (R108). -/
def State.forces (s : State) (h : Head) (ctx : Stroke) (f : Sample) : List Nat :=
  measureLanes (s.head h).tool.lanes (ctx.tareZeros.getD []) f.raws

/-- A measured frame in APPROACH, ENGAGE or DWELL, held or not: the summaries, the hard limits, then the rules of the
state (R114, R117, R122, R124, R126). -/
def State.measuredFrame (s : State) (h : Head) (held : Bool) (l : Live) (job : Job) (env : Envelope) (ctx : Stroke)
    (f : Sample) : State :=
  match hardLimits (s.head h).tool job.settings f (s.forces h ctx f) with
  | some b => s.faultStroke h job env (summarize ctx f (s.forces h ctx f)) .overforce b
  | none =>
    match l with
    | .approach => s.approachFrame h held job env (summarize ctx f (s.forces h ctx f)) f (s.forces h ctx f)
    | .engage => s.engageFrame h held job env (summarize ctx f (s.forces h ctx f)) f (s.forces h ctx f)
    | .dwell => s.stay h held .dwell job env (summarize ctx f (s.forces h ctx f))

/-- The stroke context with the start displacement, which the first frame that is no sensor fault sets (R113). -/
def startContext (ctx : Stroke) (f : Sample) : Stroke :=
  { ctx with startDisplacement := ctx.startDisplacement.or (some f.displacement) }

/-- A frame in APPROACH, ENGAGE or DWELL, held or not (R101, R113, R117, R124, R126). -/
def State.liveFrame (s : State) (h : Head) (held : Bool) (l : Live) (job : Job) (env : Envelope) (ctx : Stroke)
    (f : Sample) : State :=
  if sensorFault (s.head h).tool f then s.faultStroke h job env ctx .sensorFault noBreach
  else if l = .approach ∧ ctx.tareCount < 8 then s.tareFrame h held job env (startContext ctx f) f
  else s.measuredFrame h held l job env (startContext ctx f) f

/-- The hard limits of a frame in RETRACT. A stroke that left APPROACH before its eighth tare frame has no zeros: its frames
are judged on their saturation flags, as its tare frames were. DEDUCED, log entry 2. -/
def State.retractLimits (s : State) (h : Head) (job : Job) (ctx : Stroke) (f : Sample) : Option Breach :=
  match ctx.tareZeros with
  | some _ => hardLimits (s.head h).tool job.settings f (s.forces h ctx f)
  | none => saturationBreach (s.head h).tool f

/-- A frame in RETRACT; a breach sets the offending lanes and the fault lane (R116, R129, R133). -/
def State.retractFrame (s : State) (h : Head) (job : Job) (env : Envelope) (ctx : Stroke) (f : Sample) : State :=
  if sensorFault (s.head h).tool f then s.lateFault h job env ctx .sensorFault
  else
    match s.retractLimits h job ctx f with
    | some b => s.lateFault h job env { ctx with offending := b.offending, faultLane := b.faultLane } .overforce
    | none =>
      if f.displacement ≤ ctx.retractTarget.getD f.displacement then
        s.endStroke h job { ctx with retractTarget := some (ctx.retractTarget.getD f.displacement) }
          (recordedOutcome ctx) false
      else
        s.setEngine h
          (.stroke .retract job env { ctx with retractTarget := some (ctx.retractTarget.getD f.displacement) })

/-- An accepted frame handed to the Stroke Engine, or not, by the engine's state (R100). -/
def State.deliver (s : State) (h : Head) (f : Sample) : State :=
  match (s.head h).engine with
  | .idle => s
  | .composing _ => s
  | .armed _ _ => s
  | .stroke ph job env ctx =>
    match ph with
    | .approach => s.liveFrame h false .approach job env ctx f
    | .engage => s.liveFrame h false .engage job env ctx f
    | .dwell => s.liveFrame h false .dwell job env ctx f
    | .held ret => s.liveFrame h true ret job env ctx f
    | .retract => s.retractFrame h job env ctx f
    | .faulted => s

/-! ## Reception (6.2) -/

/-- The receiver's updates at an acceptance; a running silence timer restarts (R99, R103). -/
def acceptedLink (u : HeadUnit) (f : Sample) : Link :=
  { u.link with
      lastFrame := some f, sinceAccepted := some 0,
      silence := u.link.silence.map (fun _ => linkTimeout u * Config.microsPerMilli) }

/-- Whether a frame repeats the last accepted sequence (R99). -/
def duplicate (l : Link) (f : Sample) : Bool :=
  match l.lastFrame with
  | some g => decide (g.sequence = f.sequence)
  | none => false

/-- The acceptance of a frame, taken whole in its event (R99, R100). -/
def State.acceptFrame (s : State) (h : Head) (f : Sample) : State :=
  (s.modHead h (fun u => { u with link := acceptedLink u f })).deliver h f

/-- The link falls idle after the rest of a frame that a hard reset cut: the receiver begins with the next byte (R97). -/
def State.linkIdle (s : State) (h : Head) : State :=
  s.modHead h (fun u => { u with link := { u.link with awaitIdle := false } })

/-- SAMPLE_FRAME: framing and CRC, duplicate, acceptance; a discarded frame changes nothing (R98, R99). Bytes of a frame that
a hard reset cut are lost (R97). -/
def execSampleFrame (h : Head) (bytes : List Byte) (s : State) : Host.Outcome State Fault Refusal :=
  if (s.head h).link.awaitIdle then .next (s.linkIdle h)
  else
    match decodeSample bytes with
    | some f => if duplicate (s.head h).link f then .next s else .next (s.acceptFrame h f)
    | none => .next s

end Sys2Proof.Machine
end

