-- ==== Sys2Proof/Machine/Heads.lean ====
section
/-! DEFINITION. START, ABORT and the timers of a stroke (chapter 7); the head lines, the interlock, HELD and RESUME
(chapter 8). -/

namespace Sys2Proof.Machine

/-! ## START (7.2) -/

/-- The stroke context at START (R112). -/
def startStroke (laneCount : Nat) (settings : Snapshot) : Stroke :=
  { tareSums := List.replicate laneCount 0, tareCount := 0, tareZeros := none, startDisplacement := none,
    contact := none, stationIndex := 0, coarse := 0,
    lanes := List.replicate laneCount { peak := 0, excursions := 0, first := none }, peakTotal := 0, maxDepth := none,
    seatedDepth := none, remainingDwell := settings.dwell * Config.microsPerMilli, outcome := none, offending := [],
    faultLane := none, faultStation := none, retractTarget := none }

/-- START taken (R112). -/
def State.startTaken (s : State) (h : Head) (job : Job) (env : Envelope) : State :=
  ((s.setEngine h (.stroke .approach job env (startStroke (s.head h).tool.laneCount job.settings))).setSiteState
    job.site .pressing).setSilence h (some (job.settings.linkTimeout * Config.microsPerMilli))

/-- START's body (R112). -/
def startBody (h : Head) (s : State) : Answer :=
  match (s.head h).engine with
  | .armed job env =>
    if stopLevel (s.head h) then (s, .stopped, [])
    else if interlockActive (s.head h) then (s, .interlock, [])
    else if (s.head h).lines.override = .forceOff then (s, .lineForced, [])
    else (s.startTaken h job env, .ok, [])
  | .idle => (s, .refusedState, [])
  | .composing _ => (s, .refusedState, [])
  | .stroke _ _ _ _ => (s, .refusedState, [])

/-- START (R112). -/
def execStart (p : Port) (s : State) : Host.Outcome State Fault Refusal :=
  .next (receive (.start p) p (onHead p startBody) s)

/-! ## ABORT (7.11) -/

/-- ABORT's body, once its head is named (R91, R136). -/
def abortBody (h : Head) (s : State) : Answer :=
  match (s.head h).engine with
  | .idle => (s, .refusedState, [])
  | .composing job => ((s.failComposition h job abandoned).trySwap, .ok, [])
  | .armed _ _ => ((s.toIdle h).trySwap, .ok, [])
  | .stroke ph job env ctx =>
    match phaseLive ph with
    | some _ => (s.abortStroke h job env ctx, .ok, [])
    | none => (s, .refusedState, [])

/-- ABORT (R136). -/
def execAbort (p : Port) (head : Option Byte) (s : State) : Host.Outcome State Fault Refusal :=
  .next (receive (.abort p head) p (onNamedHead p head abortBody) s)

/-! ## HELD and RESUME (8.6) -/

/-- The INTERLOCK_HOLD notice; its reason is 0 for HOLD and 1 for ABORT (R148, R151, 12.4). -/
def interlockHold (h : Head) (job : Job) (ctx : Stroke) (reason : Nat) : Notice :=
  { kind := .interlockHold, head := some h, site := some job.site, reason := some reason,
    station := some ctx.stationIndex, lane := none }

/-- The INTERLOCK_RESUMED notice, with the return state as its reason (R150, 12.4). -/
def interlockResumed (h : Head) (job : Job) (ret : Live) : Notice :=
  { kind := .interlockResumed, head := some h, site := some job.site, reason := some (liveCode ret), station := none,
    lane := none }

/-- The engine enters HELD from a state of the stroke (R148). The dwell timer pauses: it runs in DWELL alone. -/
def State.hold (s : State) (h : Head) (ret : Live) (job : Job) (env : Envelope) (ctx : Stroke) : State :=
  (s.setEngine h (.stroke (.held ret) job env ctx)).postHead h (interlockHold h job ctx 0)

/-- The engine returns from HELD to its return state (R149, R150). -/
def State.returnFromHeld (s : State) (h : Head) (ret : Live) (job : Job) (env : Envelope) (ctx : Stroke) : State :=
  (s.setEngine h (.stroke (livePhase ret) job env ctx)).postHead h (interlockResumed h job ret)

/-- The interlock aborts the stroke: INTERLOCK_HOLD, then as an ABORT taken in the event (R151). -/
def State.interlockAbort (s : State) (h : Head) (job : Job) (env : Envelope) (ctx : Stroke) : State :=
  (s.postHead h (interlockHold h job ctx 1)).abortStroke h job env ctx

/-- RESUME's body, once its head is named (R150). -/
def resumeBody (h : Head) (s : State) : Answer :=
  match (s.head h).engine with
  | .stroke (.held ret) job env ctx =>
    if interlockActive (s.head h) then (s, .interlock, []) else (s.returnFromHeld h ret job env ctx, .ok, [])
  | .stroke .approach _ _ _ => (s, .refusedState, [])
  | .stroke .engage _ _ _ => (s, .refusedState, [])
  | .stroke .dwell _ _ _ => (s, .refusedState, [])
  | .stroke .retract _ _ _ => (s, .refusedState, [])
  | .stroke .faulted _ _ _ => (s, .refusedState, [])
  | .idle => (s, .refusedState, [])
  | .composing _ => (s, .refusedState, [])
  | .armed _ _ => (s, .refusedState, [])

/-- RESUME (R150). -/
def execResume (p : Port) (head : Option Byte) (s : State) : Host.Outcome State Fault Refusal :=
  .next (receive (.resume p head) p (onNamedHead p head resumeBody) s)

/-! ## The interlock (8.5 to 8.7) -/

/-- The interlock becomes active (R147, R148, R149, R151). -/
def State.interlockOn (s : State) (h : Head) : State :=
  match (s.head h).engine with
  | .stroke ph job env ctx =>
    match phaseLive ph, (s.head h).settings.interlockAction with
    | some (_, _), .abort => s.interlockAbort h job env ctx
    | some (false, l), .holdLevel => s.hold h l job env ctx
    | some (false, l), .holdLatch => s.hold h l job env ctx
    | some (true, _), .holdLevel => s
    | some (true, _), .holdLatch => s
    | none, _ => s
  | .idle => s
  | .composing _ => s
  | .armed _ _ => s

/-- The interlock becomes inactive: under HOLD_LEVEL a HELD engine returns (R149). -/
def State.interlockOff (s : State) (h : Head) : State :=
  match (s.head h).engine, (s.head h).settings.interlockAction with
  | .stroke (.held ret) job env ctx, .holdLevel => s.returnFromHeld h ret job env ctx
  | _, _ => s

/-- An interlock change, if the reading has changed from what it was before (R147). -/
def State.interlockMoved (s : State) (h : Head) (before : Bool) : State :=
  if interlockActive (s.head h) = before then s
  else if interlockActive (s.head h) then s.interlockOn h
  else s.interlockOff h

/-- INTERLOCK_CHANGE: the input takes a level (R147). -/
def execInterlockChange (h : Head) (level : Bool) (s : State) : Host.Outcome State Fault Refusal :=
  .next ((s.modLines h (fun l => { l with interlockHigh := level })).interlockMoved h (interlockActive (s.head h)))

/-- A new INTERLOCK_ACTION meets a HELD engine (R152). -/
def State.actionChanged (s : State) (h : Head) : State :=
  match (s.head h).engine with
  | .stroke (.held ret) job env ctx =>
    match (s.head h).settings.interlockAction, interlockActive (s.head h) with
    | .holdLevel, false => s.returnFromHeld h ret job env ctx
    | .abort, true => s.interlockAbort h job env ctx
    | .holdLevel, true => s
    | .abort, false => s
    | .holdLatch, _ => s
  | .stroke .approach _ _ _ => s
  | .stroke .engage _ _ _ => s
  | .stroke .dwell _ _ _ => s
  | .stroke .retract _ _ _ => s
  | .stroke .faulted _ _ _ => s
  | .idle => s
  | .composing _ => s
  | .armed _ _ => s

/-! ## Timers -/

/-- SILENCE_TIMER_EXPIRY: a timer with no time left expires, and the stroke faults LINK_LOST, late in RETRACT; the expiry of a
timer that is stopped, or that an accepted frame has restarted, does not come (R104, R132, R133). -/
def execSilenceTimerExpiry (h : Head) (s : State) : Host.Outcome State Fault Refusal :=
  if (s.head h).link.silence = some 0 then
    match (s.head h).engine with
    | .stroke ph job env ctx =>
      match phaseLive ph, ph with
      | some _, _ => .next (s.faultStroke h job env ctx .linkLost noBreach)
      | none, .retract => .next (s.lateFault h job env ctx .linkLost)
      | none, _ => .next (s.setSilence h none)
    | .idle => .next (s.setSilence h none)
    | .composing _ => .next (s.setSilence h none)
    | .armed _ _ => .next (s.setSilence h none)
  else .next s

/-- DWELL_TIMER_EXPIRY: the outcome of a stroke in DWELL with no dwell left is decided; in any other state the timer does not
run (R125). -/
def execDwellTimerExpiry (h : Head) (s : State) : Host.Outcome State Fault Refusal :=
  match (s.head h).engine with
  | .stroke .dwell job env ctx =>
    if ctx.remainingDwell = 0 then .next (s.conclude h job env ctx (seatedOutcome job ctx)) else .next s
  | .stroke .approach _ _ _ => .next s
  | .stroke .engage _ _ _ => .next s
  | .stroke (.held _) _ _ _ => .next s
  | .stroke .retract _ _ _ => .next s
  | .stroke .faulted _ _ _ => .next s
  | .idle => .next s
  | .composing _ => .next s
  | .armed _ _ => .next s

/-- MARK_PULSE_END: a pulse with no time left runs out; one that a later event has restarted does not (R146). -/
def execMarkPulseEnd (h : Head) (s : State) : Host.Outcome State Fault Refusal :=
  if (s.head h).lines.pulse = some 0 then .next (s.modLines h (fun l => { l with pulse := none })) else .next s

/-! ## SET_LINE (8.2, 8.4) -/

/-- SET_LINE of PERMIT, once its head is named (R142). -/
def setPermit (h : Head) (head line value : Byte) (s : State) : Answer :=
  match overrideOf value with
  | none => (s, .range, [])
  | some o =>
    if o = .forceOn ∧ s.map.mode = .active then (s, .lineForced, [])
    else if o = .forceOn ∧ stopLevel (s.head h) then (s, .stopped, [])
    else
      (s.modLines h (fun l => { l with override := o }), .ok,
        [head, line, value] ++ flag8 (permitLevel ((s.modLines h (fun l => { l with override := o })).head h)))

/-- SET_LINE of MARK, once its head is named (R142, R146). -/
def setMark (h : Head) (head line value : Byte) (s : State) : Answer :=
  match markSourceOf value with
  | none => (s, .range, [])
  | some m =>
    (s.modLines h (fun l => { l with markSource := m }), .ok,
      [head, line, value] ++ flag8 (permitLevel ((s.modLines h (fun l => { l with markSource := m })).head h)))

/-- SET_LINE's body (R142). -/
def setLineBody (head line value : Byte) (s : State) : Answer :=
  match headOf head with
  | none => (s, .range, [])
  | some h =>
    if line.toNat = 0 then setPermit h head line value s
    else if line.toNat = 1 then setMark h head line value s
    else (s, .range, [])

/-- SET_LINE (R142). -/
def execSetLine (p : Port) (head line value : Byte) (s : State) : Host.Outcome State Fault Refusal :=
  .next (receive (.setLine p head line value) p (setLineBody head line value) s)

/-! ## SET_TOOL, SET_HEAD, KEEP_SETTINGS (chapter 2) -/

/-- A lane entry after clamping (R25). -/
def clampedLane (e : LaneEntry) : LaneSetup :=
  { gain := clampTo 1 65535 e.gain.toNat, ceiling := clampTo 1 16777215 e.ceiling.toNat }

/-- Whether a lane entry was clamped (R25). -/
def laneClamped (e : LaneEntry) : Bool :=
  decide ((clampedLane e).gain ≠ e.gain.toNat ∨ (clampedLane e).ceiling ≠ e.ceiling.toNat)

/-- Whether a head has a stake in a site: its engine is not IDLE, or it holds a claim or waits (R24). -/
def headBusy (u : HeadUnit) : Bool := !engineIdle u.engine || u.claim.isSome || u.waiting.isSome

/-- The lane entries of the SET_TOOL reply, as stored (R25). -/
def laneSetupBytes (l : LaneSetup) : List Byte := u32 l.gain ++ u32 l.ceiling

/-- SET_TOOL's body (R24, R25). -/
def setToolBody (head laneCount toolCode : Byte) (lanes : List LaneEntry) (s : State) : Answer :=
  match headOf head with
  | none => (s, .range, [])
  | some h =>
    if headBusy (s.head h) then (s, .refusedState, [])
    else if Config.laneLimit < laneCount.toNat ∨ 7 < toolCode.toNat then (s, .range, [])
    else
      (s.modHead h (fun u =>
          { u with
              tool :=
                { laneCount := laneCount.toNat, toolCode := toolCode.toNat, lanes := lanes.map clampedLane } }),
        if lanes.any laneClamped then .okClamped else .ok,
        [head, laneCount, toolCode] ++ (lanes.map clampedLane).flatMap laneSetupBytes)

/-- SET_TOOL (R24). -/
def execSetTool (p : Port) (head laneCount toolCode : Byte) (lanes : List LaneEntry) (s : State) :
    Host.Outcome State Fault Refusal :=
  .next (receive (.setTool p head laneCount toolCode lanes) p (setToolBody head laneCount toolCode lanes) s)

/-- Store a judged value in a setting; the two interlock settings act in the event (R28, R32). -/
def State.storeHead (s : State) (h : Head) (g : Setting) (v : Nat) : State :=
  let stored := s.modHead h (fun u => { u with settings := storeSetting u.settings g v })
  match g with
  | .interlockPolarity => stored.interlockMoved h (interlockActive (s.head h))
  | .interlockAction =>
    if (s.head h).settings.interlockAction = interlockActionOf v then stored else stored.actionChanged h
  | .stationPitch => stored
  | .guard => stored
  | .excursionAllowance => stored
  | .failAction => stored
  | .contactThreshold => stored
  | .dwell => stored
  | .retractClearance => stored
  | .linkTimeout => stored
  | .verifyPercent => stored
  | .verifyTravel => stored
  | .headCeiling => stored

/-- SET_HEAD's body (R28). -/
def setHeadBody (head setting : Byte) (value : Word) (s : State) : Answer :=
  match headOf head, settingOf setting with
  | some h, some g =>
    match judgeSetting g value.toNat with
    | some (v, st) => (s.storeHead h g v, st, [head, setting] ++ u32 v)
    | none => (s, .range, [])
  | some _, none => (s, .range, [])
  | none, _ => (s, .range, [])

/-- SET_HEAD (R28). -/
def execSetHead (p : Port) (head setting : Byte) (value : Word) (s : State) : Host.Outcome State Fault Refusal :=
  .next (receive (.setHead p head setting value) p (setHeadBody head setting value) s)

/-- KEEP_SETTINGS's body (R33). -/
def keepSettingsBody (value : Byte) (s : State) : Answer :=
  match flagOf value with
  | some b => ({ s with keep := b }, .ok, [value])
  | none => (s, .range, [])

/-- KEEP_SETTINGS (R33). -/
def execKeepSettings (p : Port) (value : Byte) (s : State) : Host.Outcome State Fault Refusal :=
  .next (receive (.keepSettings p value) p (keepSettingsBody value) s)

end Sys2Proof.Machine
end

