-- ==== Sys2Proof/Machine/Clock.lean ====
section
/-! DEFINITION. The passing of a microsecond while no command waits (log entry 6): the time since acceptance, the silence
and dwell timers and the MARK pulses move on, and a timer that runs out has its expiry put in the queue. -/

namespace Sys2Proof.Machine

/-- A timer after 1 µs: `none` is stopped. -/
def tickTimer (t : Option Nat) : Option Nat := t.map (fun n => n - 1)

/-- The dwell timer runs in DWELL alone; HELD pauses it (R125, R148). -/
def tickEngine (e : Engine) : Engine :=
  match e with
  | .stroke .dwell job env ctx => .stroke .dwell job env { ctx with remainingDwell := ctx.remainingDwell - 1 }
  | .stroke .approach job env ctx => .stroke .approach job env ctx
  | .stroke .engage job env ctx => .stroke .engage job env ctx
  | .stroke (.held ret) job env ctx => .stroke (.held ret) job env ctx
  | .stroke .retract job env ctx => .stroke .retract job env ctx
  | .stroke .faulted job env ctx => .stroke .faulted job env ctx
  | .idle => .idle
  | .composing job => .composing job
  | .armed job env => .armed job env

/-- A head after 1 µs (R97, R103, R125, R146). -/
def tickHead (u : HeadUnit) : HeadUnit :=
  { u with
      engine := tickEngine u.engine,
      link :=
        { u.link with sinceAccepted := u.link.sinceAccepted.map (· + 1), silence := tickTimer u.link.silence },
      lines := { u.lines with pulse := tickTimer u.lines.pulse } }

/-- Whether a running timer has run out. -/
def ranOut (t : Option Nat) : Bool :=
  match t with
  | some n => decide (n = 0)
  | none => false

/-- Whether the dwell timer runs and has run out. -/
def dwellRanOut (e : Engine) : Bool :=
  match e with
  | .stroke .dwell _ _ ctx => decide (ctx.remainingDwell = 0)
  | .stroke .approach _ _ _ => false
  | .stroke .engage _ _ _ => false
  | .stroke (.held _) _ _ _ => false
  | .stroke .retract _ _ _ => false
  | .stroke .faulted _ _ _ => false
  | .idle => false
  | .composing _ => false
  | .armed _ _ => false

/-- The expiries of a head that are due, in the order the model takes them when several fall in one microsecond
(log entry 6). -/
def dueExpiries (h : Head) (u : HeadUnit) : List Instr :=
  (if ranOut u.link.silence then [.silenceTimerExpiry h] else []) ++
    (if dwellRanOut u.engine then [.dwellTimerExpiry h] else []) ++
    (if ranOut u.lines.pulse then [.markPulseEnd h] else [])

/-- The part after 1 µs in which no command was waiting. -/
def tick (s : State) : State :=
  { s with
      headA := tickHead s.headA, headB := tickHead s.headB,
      pending := dueExpiries .a (tickHead s.headA) ++ dueExpiries .b (tickHead s.headB) }

end Sys2Proof.Machine
end

