-- ==== Sys2Proof/Machine/BoardMap.lean ====
section
/-! DEFINITION. The Board Map's requests (chapter 1). -/

namespace Sys2Proof.Machine

/-! ## Editing (1.3) -/

/-- The site record that WRITE_SITE stores: PENDING, with no holder and no prior state (R6). -/
def writtenSite (f : SiteFields) : Site :=
  { state := .pending, x := f.x.toNat, y := f.y.toNat, toolCode := f.toolCode.toNat, firstPin := f.firstPin.toNat,
    pinCount := f.pinCount.toNat, contactLimit := f.contactLimit.toInt, seatDepth := f.seatDepth.toNat,
    seatTolerance := f.seatTolerance.toNat, holder := none, prior := none }

/-- The field values for which WRITE_SITE is refused RANGE (R6). -/
def siteFieldsBad (site : Byte) (f : SiteFields) : Bool :=
  decide (Config.siteCount ≤ site.toNat ∨ 7 < f.toolCode.toNat ∨ f.seatDepth.toNat < 100 ∨ 6000 < f.seatDepth.toNat ∨
    1000 < f.seatTolerance.toNat)

/-- WRITE_SITE's body (R5, R6). -/
def writeSiteBody (site : Byte) (f : SiteFields) (s : State) : Answer :=
  if s.map.mode = .active then (s, .mapState, [])
  else if siteFieldsBad site f then (s, .range, [])
  else
    (((s.setSite site.toNat (writtenSite f)).invalidateSite site.toNat).invalidateSpan (pinSpan (writtenSite f)), .ok, [])

/-- WRITE_SITE (R6). -/
def execWriteSite (p : Port) (site : Byte) (f : SiteFields) (s : State) : Host.Outcome State Fault Refusal :=
  .next (receive (.writeSite p site f) p (writeSiteBody site f) s)

/-- CLEAR_SITE's body (R5, R7). -/
def clearSiteBody (site : Byte) (s : State) : Answer :=
  if s.map.mode = .active then (s, .mapState, [])
  else if Config.siteCount ≤ site.toNat then (s, .range, [])
  else
    (((s.invalidateSpan (pinSpan (s.site site.toNat))).invalidateSite site.toNat).setSite site.toNat Site.undefined,
      .ok, [])

/-- CLEAR_SITE (R7). -/
def execClearSite (p : Port) (site : Byte) (s : State) : Host.Outcome State Fault Refusal :=
  .next (receive (.clearSite p site) p (clearSiteBody site) s)

/-- The pin record of an entry; its live byte is false when it is 0 and true otherwise (R8, R187). -/
def entryPin (e : PinEntry) : Pin :=
  { live := decide (e.live ≠ 0), lane := e.lane.toNat, pinType := e.pinType.toNat, holeClass := e.holeClass.toNat,
    entryOffset := e.entryOffset.toNat, row := e.row.toNat, column := e.column.toNat }

/-- The entries for which WRITE_PINS is refused RANGE (R8). -/
def pinEntryBad (e : PinEntry) : Bool :=
  decide (15 < e.lane.toNat ∨ 3 < e.pinType.toNat ∨ 7 < e.holeClass.toNat ∨ 2000 < e.entryOffset.toNat)

/-- Write pin records from an index upward, in order (R8). -/
def State.writePins (s : State) (first : Nat) : List PinEntry → State
  | [] => s
  | e :: es =>
    State.writePins { s with map := { s.map with pins := Table.set Pin.blank s.map.pins first (entryPin e) } }
      (first + 1) es

/-- WRITE_PINS's body (R5, R8). -/
def writePinsBody (first : Half) (count : Byte) (entries : List PinEntry) (s : State) : Answer :=
  if s.map.mode = .active then (s, .mapState, [])
  else if count.toNat < 1 ∨ 16 < count.toNat ∨ Config.pinCount < first.toNat + count.toNat ∨ entries.any pinEntryBad then
    (s, .range, [])
  else ((s.writePins first.toNat entries).invalidateSpan (first.toNat, entries.length), .ok, [])

/-- WRITE_PINS (R8). -/
def execWritePins (p : Port) (first : Half) (count : Byte) (entries : List PinEntry) (s : State) :
    Host.Outcome State Fault Refusal :=
  .next (receive (.writePins p first count entries) p (writePinsBody first count entries) s)

/-- The greatest keep-out distance (R10). -/
def keepOutLimit : Nat := 20000

/-- SET_KEEPOUT's body (R5, R10). -/
def setKeepoutBody (distance : Half) (s : State) : Answer :=
  if s.map.mode = .active then (s, .mapState, [])
  else if keepOutLimit < distance.toNat then
    ({ s with map := { s.map with keepOut := keepOutLimit } }, .okClamped, u16 keepOutLimit)
  else ({ s with map := { s.map with keepOut := distance.toNat } }, .ok, [])

/-- SET_KEEPOUT (R10). -/
def execSetKeepout (p : Port) (distance : Half) (s : State) : Host.Outcome State Fault Refusal :=
  .next (receive (.setKeepout p distance) p (setKeepoutBody distance) s)

/-! ## Activation (1.4) -/

/-- Whether two sites' ranges, as written, share an index; an empty one shares none (R12 check 3). -/
def rangesMeet (a b : Site) : Bool := spansMeet (a.firstPin, a.pinCount) (b.firstPin, b.pinCount)

/-- The defined sites in ascending order. -/
def State.definedSites (s : State) : List Nat :=
  (List.range Config.siteCount).filter (fun i => siteDefined (s.site i))

/-- The lowest-indexed other defined site whose range shares an index with a site's (R12 check 3). -/
def State.overlapping (s : State) (i : Nat) : Option Nat :=
  s.definedSites.find? (fun j => decide (j ≠ i) && rangesMeet (s.site i) (s.site j))

/-- Whether at least one of the pins from an index on is live (R12 check 4). -/
def State.anyLive (s : State) (first : Nat) : Nat → Bool
  | 0 => false
  | n + 1 => (s.pin first).live || s.anyLive (first + 1) n

/-- The first of the four checks that a site fails, with the other site for OVERLAP (R12). -/
def State.checkSite (s : State) (i : Nat) : Option (MapCheck × Option Nat) :=
  if Config.pinCount < (s.site i).firstPin + (s.site i).pinCount then some (.pinRange, none)
  else if (s.site i).pinCount < 1 ∨ 512 < (s.site i).pinCount then some (.pinCount, none)
  else
    match s.overlapping i with
    | some j => some (.overlap, some j)
    | none => if s.anyLive (s.site i).firstPin (s.site i).pinCount then none else some (.noLivePin, none)

/-- The first failing site of a list, with its check (R12). -/
def State.firstFailing (s : State) : List Nat → Option (Nat × MapCheck × Option Nat)
  | [] => none
  | i :: is =>
    match s.checkSite i with
    | some c => some (i, c)
    | none => s.firstFailing is

/-- Whether either head's PERMIT override is FORCE_ON (R11). -/
def State.forcedOn (s : State) : Bool :=
  decide (s.headA.lines.override = .forceOn) || decide (s.headB.lines.override = .forceOn)

/-- MAP_ACTIVATE's body (R11, R12, R13). -/
def mapActivateBody (s : State) : Answer :=
  if s.map.mode = .active then (s, .mapState, [])
  else if s.forcedOn then (s, .lineForced, [])
  else
    match s.firstFailing s.definedSites with
    | some (i, check, other) => (s, .invalidMap, u8 i ++ u8 (mapCheckCode check) ++ opt8 other)
    | none =>
      ({ s with map := { s.map with mode := .active, generation := s.map.generation + 1 } }, .ok,
        le16 (s.map.generation + 1) ++ u8 s.definedSites.length)

/-- MAP_ACTIVATE (R11). -/
def execMapActivate (p : Port) (s : State) : Host.Outcome State Fault Refusal :=
  .next (receive (.mapActivate p) p mapActivateBody s)

/-- Whether any site is CLAIMED or PRESSING (R14). -/
def State.anyHeld (s : State) : Bool := (List.range Config.siteCount).any (fun i => siteHeld (s.site i))

/-- Whether the map is in use: a site held, a claim waiting, or an engine out of IDLE (R14). -/
def State.mapInUse (s : State) : Bool :=
  s.anyHeld || s.headA.waiting.isSome || s.headB.waiting.isSome || !s.bothIdle

/-- MAP_EDIT's body (R14). -/
def mapEditBody (s : State) : Answer :=
  if s.map.mode = .edit then (s, .ok, [])
  else if s.mapInUse then (s, .mapInUse, [])
  else ({ s with map := { s.map with mode := .edit } }, .ok, [])

/-- MAP_EDIT (R14). -/
def execMapEdit (p : Port) (s : State) : Host.Outcome State Fault Refusal :=
  .next (receive (.mapEdit p) p mapEditBody s)

/-! ## Lock flags (1.6) and disposition (1.8) -/

/-- Lock a run of `n` indices in ascending order, stopping at the first held site; the index and the number of indices not
yet processed where it ended (R16). -/
def State.lockRun (s : State) (i : Nat) : Nat → State × Nat × Nat
  | 0 => (s, i, 0)
  | n + 1 => if siteHeld (s.site i) then (s, i, n + 1) else State.lockRun (s.setLock i true) (i + 1) n

/-- A run's length: a count that would carry past index 63 is clamped (R16, R18). -/
def runLength (first count : Byte) : Nat := min count.toNat (Config.siteCount - first.toNat)

/-- The status of a run that processed every index (R17, R18). -/
def runStatus (first count : Byte) : Status := if runLength first count < count.toNat then .okClamped else .ok

/-- LOCK_SITES's body (R16, R17). -/
def lockSitesBody (first count : Byte) (s : State) : Answer :=
  if Config.siteCount ≤ first.toNat ∨ count.toNat = 0 then (s, .range, [])
  else
    match s.lockRun first.toNat (runLength first count) with
    | (t, _, 0) => (t, runStatus first count, u8 Config.siteCount ++ u8 0)
    | (t, i, n + 1) => (t, .refusedState, u8 i ++ u8 (n + 1))

/-- LOCK_SITES (R16). -/
def execLockSites (p : Port) (first count : Byte) (s : State) : Host.Outcome State Fault Refusal :=
  .next (receive (.lockSites p first count) p (lockSitesBody first count) s)

/-- Clear the flags of a run of `n` indices (R18). -/
def State.unlockRun (s : State) (i : Nat) : Nat → State
  | 0 => s
  | n + 1 => State.unlockRun (s.setLock i false) (i + 1) n

/-- UNLOCK_SITES's body (R18). -/
def unlockSitesBody (first count : Byte) (s : State) : Answer :=
  if Config.siteCount ≤ first.toNat ∨ count.toNat = 0 then (s, .range, [])
  else
    (s.unlockRun first.toNat (runLength first count), runStatus first count, u8 Config.siteCount ++ u8 0)

/-- UNLOCK_SITES (R18). -/
def execUnlockSites (p : Port) (first count : Byte) (s : State) : Host.Outcome State Fault Refusal :=
  .next (receive (.unlockSites p first count) p (unlockSitesBody first count) s)

/-- DISPOSE_SITE's body (R19). -/
def disposeSiteBody (site : Byte) (s : State) : Answer :=
  if Config.siteCount ≤ site.toNat then (s, .range, [])
  else if (s.site site.toNat).state = .rejected ∨ (s.site site.toNat).state = .partialIn then
    (s.setSiteState site.toNat .pending, .ok, [])
  else (s, .refusedState, [])

/-- DISPOSE_SITE (R19). -/
def execDisposeSite (p : Port) (site : Byte) (s : State) : Host.Outcome State Fault Refusal :=
  .next (receive (.disposeSite p site) p (disposeSiteBody site) s)

end Sys2Proof.Machine
end

