-- ==== Sys2Proof/Machine/System.lean ====
section
/-! DEFINITION. What ends the work of a head or of the whole part: HEAD_CLEAR (R135, R144), RESTART (R182) and the hard
reset (R20). -/

namespace Sys2Proof.Machine

/-! ## HEAD_CLEAR -/

/-- Release the site of a head's claim to its prior state, when it has one (R22, R57). -/
def State.releaseClaim (s : State) (h : Head) : State :=
  match (s.head h).claim with
  | some c => s.releaseSite h c.site (returnState (s.site c.site))
  | none => s

/-- What HEAD_CLEAR does to a head's engine, stroke, site and claim (R22, R57, R92, R135). -/
def State.clearEngine (s : State) (h : Head) : State :=
  match (s.head h).engine with
  | .idle => s.releaseClaim h
  | .composing job => ((s.releaseClaim h).failComposition h job abandoned).trySwap
  | .armed _ _ => ((s.releaseClaim h).toIdle h).trySwap
  | .stroke ph job env ctx =>
    match phaseLive ph with
    | some _ =>
      (s.verdictEvent h job env ctx .aborted false).endStroke h job { ctx with outcome := some .aborted } .aborted true
    | none => s.endStroke h job ctx (recordedOutcome ctx) true

/-- Release a head's STOP latch (R144). -/
def State.releaseStop (s : State) (h : Head) : State := s.modLines h (fun l => { l with stop := false })

/-- HEAD_CLEAR's body, once its head is named (R57, R135, R144). -/
def headClearBody (h : Head) (s : State) : Answer :=
  (((s.clearEngine h).setWaiting h none).releaseStop h, .ok, [])

/-- HEAD_CLEAR (R144). -/
def execHeadClear (p : Port) (head : Option Byte) (s : State) : Host.Outcome State Fault Refusal :=
  .next (receive (.headClear p head) p (onNamedHead p head headClearBody) s)

/-! ## RESTART -/

/-- The state of a held site after RESTART: its prior state while CLAIMED, else the state of R131 for an end by RESTART
(R21, R139). -/
def restartSite (u : HeadUnit) (x : Site) : SiteState :=
  match u.engine with
  | .idle => returnState x
  | .composing _ => returnState x
  | .armed _ _ => returnState x
  | .stroke ph job _ ctx =>
    match phaseLive ph with
    | some _ => (siteAfter job.kind .aborted ctx.contact.isSome true (returnState x)).getD .claimed
    | none => (siteAfter job.kind (recordedOutcome ctx) ctx.contact.isSome true (returnState x)).getD .claimed

/-- The record, verdicts and watch slots of a stroke that RESTART ends before its verdict (R139, R172). -/
def State.restartVerdict (s : State) (h : Head) : State :=
  match (s.head h).engine with
  | .stroke ph job env ctx =>
    match phaseLive ph with
    | some _ => s.verdictEvent h job env ctx .aborted false
    | none => s
  | .idle => s
  | .composing _ => s
  | .armed _ _ => s

/-- Resolve a head's held site and remove its claim and its wait; no due mark is set (R21, R58). -/
def State.restartClaim (s : State) (h : Head) : State :=
  match (s.head h).claim with
  | some c =>
    ((s.resolveSite c.site (restartSite (s.head h) (s.site c.site))).setClaim h none).setWaiting h none
  | none => s.setWaiting h none

/-- A head's engine, stroke, claim and wait at RESTART (R139). -/
def State.restartHead (s : State) (h : Head) : State := ((s.restartVerdict h).restartClaim h).toIdle h

/-- The settings of a head at RESTART, by KEEP (R35). -/
def State.restartSettings (s : State) (h : Head) : State :=
  if s.keep then s else s.modHead h (fun u => { u with settings := Settings.default })

/-- A transaction in progress at RESTART: dropped, so that the rest of a write is taken as nothing and the rest of a read
clocks out 00 (R182). -/
def lapse : Reception → Reception
  | .bytes got => .lapsed (got.head? == some readByte)
  | .lapsed read => .lapsed read

/-- A port and its queue at RESTART, with the transaction in progress on it after the event (R182). -/
def restartPort (reception : Option Reception) (u : PortUnit) : PortUnit :=
  { u with
      reply := none, transfer := none, discarded := false, reception := reception,
      queue := { items := [], overrun := false } }

/-- Steps 1 to 3 of RESTART (R182). The Cell Port's own transaction was the RESTART. -/
def State.restartWork (s : State) : State :=
  ((((((((s.restartHead .a).restartHead .b).restartSettings .a).restartSettings .b).assertStop .a).assertStop .b).modPort
    .cell (restartPort none)).modPort .headA (restartPort (s.portA.reception.map lapse))).modPort .headB
    (restartPort (s.portB.reception.map lapse))

/-- Steps 1 to 4 of RESTART: a pending swap takes place (R75, R182). -/
def State.restarted (s : State) : State := s.restartWork.trySwap

/-- The payload of the RESTART reply: each head's engine state before the event, and the map and bank state after it
(R182; widths: log entry 12). DESIGN CHOICE, log entry 22: head A's engine state comes before head B's, whose order the manual
does not give. -/
def restartPayload (before after : State) : List Byte :=
  u8 (engineStateCode (engineState before.headA.engine)) ++ u8 (engineStateCode (engineState before.headB.engine)) ++
    u8 (mapModeCode after.map.mode) ++ le16 after.map.generation ++ le16 after.library.generation ++
    flag8 after.library.swapPending

/-- RESTART: taken on the Cell Port in every state of the part and of the port; on a Head Port it is no request of the
list (R176, R177, R182). -/
def execRestart (p : Port) (s : State) : Host.Outcome State Fault Refusal :=
  match p with
  | .cell => .next (s.restarted.answer .cell (requestCode (.restart .cell)) .ok (restartPayload s s.restarted))
  | .headA => .next (receive (.restart .headA) .headA (fun t => (t, .unknown, [])) s)
  | .headB => .next (receive (.restart .headB) .headB (fun t => (t, .unknown, [])) s)

/-! ## Hard reset -/

/-- A head after hard reset; its INTERLOCK input is a pin, whose level the reset does not set. A frame partly received is
lost, and the receiver waits for its link to fall idle; one that waits already goes on waiting (R97; log entry 21). -/
def resetHead (h : Head) (u : HeadUnit) : HeadUnit :=
  { HeadUnit.reset with
      link :=
        { Link.reset with
          awaitIdle := u.link.awaitIdle || Config.frameCut h u.link.resets,
          resets := u.link.resets + 1 },
      lines := { Lines.reset with interlockHigh := u.lines.interlockHigh } }

/-- HARD_RESET: the whole part at its reset values; the queue of waiting commands and the levels of the input pins lie
outside it (R20, R26, R34, R74, R77, R97, R140, R155, R168, R174, R184). -/
def execHardReset (s : State) : Host.Outcome State Fault Refusal :=
  .next { State.reset with pending := s.pending, headA := resetHead .a s.headA, headB := resetHead .b s.headB }

end Sys2Proof.Machine
end

