-- ==== Sys2Proof/Machine/Transactions.lean ====
section
/-! DEFINITION. A master's transactions as bytes (R175 to R177, R182, R186): the frames that arrive, the incomplete ones, and
the rows DISCARDED_FRAME, INCOMPLETE_FRAME and UNKNOWN, which name the ways such a transaction can end. A row may also
carry a part of a transaction that goes on (log entry 7). -/

namespace Sys2Proof.Machine

/-- A request frame handed to the block that owns it, after R176 and R177 (each meaning judges them). The commands that are
no request have no frame, and nothing is done. -/
def handRequest (i : Instr) (s : State) : Host.Outcome State Fault Refusal :=
  match i with
  | .identify p => execIdentify p s
  | .fetchNotice p => execFetchNotice p s
  | .headStatus p head => execHeadStatus p head s
  | .readRecord p site => execReadRecord p site s
  | .restart p => execRestart p s
  | .setBlock p size => execSetBlock p size s
  | .endTransfer p => execEndTransfer p s
  | .mapEdit p => execMapEdit p s
  | .mapActivate p => execMapActivate p s
  | .writeSite p site f => execWriteSite p site f s
  | .clearSite p site => execClearSite p site s
  | .writePins p first count entries => execWritePins p first count entries s
  | .setKeepout p distance => execSetKeepout p distance s
  | .lockSites p first count => execLockSites p first count s
  | .unlockSites p first count => execUnlockSites p first count s
  | .disposeSite p site => execDisposeSite p site s
  | .writeProfile p pinType holeClass count seatForce points =>
    execWriteProfile p pinType holeClass count seatForce points s
  | .clearProfile p pinType holeClass => execClearProfile p pinType holeClass s
  | .copyBank p => execCopyBank p s
  | .readProfile p role pinType holeClass => execReadProfile p role pinType holeClass s
  | .swapBanks p => execSwapBanks p s
  | .setTool p head laneCount toolCode lanes => execSetTool p head laneCount toolCode lanes s
  | .setHead p head setting value => execSetHead p head setting value s
  | .keepSettings p value => execKeepSettings p value s
  | .setLine p head line value => execSetLine p head line value s
  | .claim p site kind wait => execClaim p site kind wait s
  | .release p => execRelease p s
  | .cancelWait p => execCancelWait p s
  | .arm p => execArm p s
  | .start p => execStart p s
  | .abort p head => execAbort p head s
  | .resume p head => execResume p head s
  | .headClear p head => execHeadClear p head s
  | .readPins p site first count => execReadPins p site first count s
  | .readSites p first count => execReadSites p first count s
  | .armWatch p slot site lane => execArmWatch p slot site lane s
  | .disarmWatch p slot => execDisarmWatch p slot s
  | .readTrace p slot => execReadTrace p slot s
  | .hardReset => .next s
  | .discardedFrame _ _ => .next s
  | .incompleteFrame _ _ => .next s
  | .unknown _ _ => .next s
  | .replyRead _ => .next s
  | .sampleFrame _ _ => .next s
  | .silenceTimerExpiry _ => .next s
  | .dwellTimerExpiry _ => .next s
  | .markPulseEnd _ => .next s
  | .compositionCompletion _ => .next s
  | .reevaluation _ => .next s
  | .interlockChange _ _ => .next s

/-- A frame that arrives without a request that its bytes spell: discarded on a busy port, else UNKNOWN when its code
names no request of the port, else FRAME_ERROR (R176, R177). -/
def State.unspelled (s : State) (p : Port) (code : Byte) : State :=
  if portBusy (s.port p) then (s.endReception p).discard p
  else if !codeListed p code then (s.endReception p).answer p code .unknown []
  else (s.endReception p).answer p code .frameError []

/-- A frame whose length field is below 4 or above 256 (R177 case 1, R186). -/
def State.badLength (s : State) (p : Port) : State :=
  if portBusy (s.port p) then (s.endReception p).discard p
  else (s.endReception p).answer p 0x00 .frameError []

/-- The bytes that a port has of a transaction, these among them: the ones in reception come first; of a transaction that
RESTART has dropped it takes none (R182). -/
def State.clocked (s : State) (p : Port) (bytes : List Byte) : List Byte :=
  match (s.port p).reception with
  | none => bytes
  | some (.bytes got) => got ++ bytes
  | some (.lapsed _) => []

/-- Bytes of which the port takes nothing: a read that RESTART has dropped clocks out 00 for them (R182), and any other ends
what is in reception (R186). -/
def takeNothing (ended : Bool) (n : Nat) (u : PortUnit) : PortUnit :=
  match u.reception with
  | some (.lapsed true) =>
    { u with
        wire := u.wire ++ List.replicate n 0x00, reception := if ended then none else some (.lapsed true) }
  | some (.lapsed false) => { u with reception := if ended then none else some (.lapsed false) }
  | some (.bytes _) => { u with reception := none }
  | none => u

/-- What is in reception after these bytes of a transaction that they do not settle: nothing once the master has ended it. -/
def State.going (s : State) (p : Port) (ended : Bool) (bytes : List Byte) : Option Reception :=
  if ended then none else some (.bytes (s.clocked p bytes))

/-- A write that has these bytes short of its frame's last one: ended there it is discarded as incomplete, else it goes on
(R175). -/
def State.cutShort (s : State) (p : Port) (ended : Bool) (bytes : List Byte) : State :=
  if ended then (s.endReception p).discard p
  else s.modPort p (fun u => { u with reception := s.going p ended bytes })

/-- Bytes that a master clocks on a port (R175 to R177, R182, R186), with whether it then ends the transaction. One that it
does not end, and in which no frame has arrived and no reply has been read, goes on. A frame that has arrived is in reception
no more when its request is taken. -/
def transact (p : Port) (ended : Bool) (bytes : List Byte) (s : State) : Host.Outcome State Fault Refusal :=
  match readTransaction (s.clocked p bytes) with
  | .nothing => .next (s.modPort p (takeNothing ended bytes.length))
  | .read n => .next (s.readBytes p n (s.going p ended bytes))
  | .incomplete => .next (s.cutShort p ended bytes)
  | .badLength => .next (s.badLength p)
  | .frame code fields =>
    match parseRequest p code fields with
    | some i => handRequest i (s.endReception p)
    | none => .next (s.unspelled p code)

/-- DISCARDED_FRAME (R176): a transaction whose frame arrives; on a busy port it is discarded, but for END_TRANSFER and
RESTART. -/
def execDiscardedFrame (p : Port) (bytes : List Byte) (s : State) : Host.Outcome State Fault Refusal :=
  transact p false bytes s

/-- INCOMPLETE_FRAME (R175): the master ends the transaction after these bytes; one ended before its frame's last byte counts
as a discarded frame. -/
def execIncompleteFrame (p : Port) (bytes : List Byte) (s : State) : Host.Outcome State Fault Refusal :=
  transact p true bytes s

/-- UNKNOWN (R177): a transaction whose frame the port answers itself, FRAME_ERROR or UNKNOWN. -/
def execUnknown (p : Port) (bytes : List Byte) (s : State) : Host.Outcome State Fault Refusal :=
  transact p false bytes s

end Sys2Proof.Machine
end

