-- ==== Sys2Proof/Machine/Dispatch.lean ====
section
/-! DEFINITION. exec: one arm for each command, calling its meaning. -/

namespace Sys2Proof.Machine

def exec (i : Instr) (s : State) : Host.Outcome State Fault Refusal :=
  match i with
  | .hardReset => Sys2Proof.Machine.execHardReset s
  | .identify v1 => Sys2Proof.Machine.execIdentify v1 s
  | .fetchNotice v1 => Sys2Proof.Machine.execFetchNotice v1 s
  | .headStatus v1 v2 => Sys2Proof.Machine.execHeadStatus v1 v2 s
  | .readRecord v1 v2 => Sys2Proof.Machine.execReadRecord v1 v2 s
  | .restart v1 => Sys2Proof.Machine.execRestart v1 s
  | .setBlock v1 v2 => Sys2Proof.Machine.execSetBlock v1 v2 s
  | .endTransfer v1 => Sys2Proof.Machine.execEndTransfer v1 s
  | .mapEdit v1 => Sys2Proof.Machine.execMapEdit v1 s
  | .mapActivate v1 => Sys2Proof.Machine.execMapActivate v1 s
  | .writeSite v1 v2 v3 => Sys2Proof.Machine.execWriteSite v1 v2 v3 s
  | .clearSite v1 v2 => Sys2Proof.Machine.execClearSite v1 v2 s
  | .writePins v1 v2 v3 v4 => Sys2Proof.Machine.execWritePins v1 v2 v3 v4 s
  | .setKeepout v1 v2 => Sys2Proof.Machine.execSetKeepout v1 v2 s
  | .lockSites v1 v2 v3 => Sys2Proof.Machine.execLockSites v1 v2 v3 s
  | .unlockSites v1 v2 v3 => Sys2Proof.Machine.execUnlockSites v1 v2 v3 s
  | .disposeSite v1 v2 => Sys2Proof.Machine.execDisposeSite v1 v2 s
  | .writeProfile v1 v2 v3 v4 v5 v6 => Sys2Proof.Machine.execWriteProfile v1 v2 v3 v4 v5 v6 s
  | .clearProfile v1 v2 v3 => Sys2Proof.Machine.execClearProfile v1 v2 v3 s
  | .copyBank v1 => Sys2Proof.Machine.execCopyBank v1 s
  | .readProfile v1 v2 v3 v4 => Sys2Proof.Machine.execReadProfile v1 v2 v3 v4 s
  | .swapBanks v1 => Sys2Proof.Machine.execSwapBanks v1 s
  | .setTool v1 v2 v3 v4 v5 => Sys2Proof.Machine.execSetTool v1 v2 v3 v4 v5 s
  | .setHead v1 v2 v3 v4 => Sys2Proof.Machine.execSetHead v1 v2 v3 v4 s
  | .keepSettings v1 v2 => Sys2Proof.Machine.execKeepSettings v1 v2 s
  | .setLine v1 v2 v3 v4 => Sys2Proof.Machine.execSetLine v1 v2 v3 v4 s
  | .claim v1 v2 v3 v4 => Sys2Proof.Machine.execClaim v1 v2 v3 v4 s
  | .release v1 => Sys2Proof.Machine.execRelease v1 s
  | .cancelWait v1 => Sys2Proof.Machine.execCancelWait v1 s
  | .arm v1 => Sys2Proof.Machine.execArm v1 s
  | .start v1 => Sys2Proof.Machine.execStart v1 s
  | .abort v1 v2 => Sys2Proof.Machine.execAbort v1 v2 s
  | .resume v1 v2 => Sys2Proof.Machine.execResume v1 v2 s
  | .headClear v1 v2 => Sys2Proof.Machine.execHeadClear v1 v2 s
  | .readPins v1 v2 v3 v4 => Sys2Proof.Machine.execReadPins v1 v2 v3 v4 s
  | .readSites v1 v2 v3 => Sys2Proof.Machine.execReadSites v1 v2 v3 s
  | .armWatch v1 v2 v3 v4 => Sys2Proof.Machine.execArmWatch v1 v2 v3 v4 s
  | .disarmWatch v1 v2 => Sys2Proof.Machine.execDisarmWatch v1 v2 s
  | .readTrace v1 v2 => Sys2Proof.Machine.execReadTrace v1 v2 s
  | .discardedFrame v1 v2 => Sys2Proof.Machine.execDiscardedFrame v1 v2 s
  | .incompleteFrame v1 v2 => Sys2Proof.Machine.execIncompleteFrame v1 v2 s
  | .unknown v1 v2 => Sys2Proof.Machine.execUnknown v1 v2 s
  | .replyRead v1 => Sys2Proof.Machine.execReplyRead v1 s
  | .sampleFrame v1 v2 => Sys2Proof.Machine.execSampleFrame v1 v2 s
  | .silenceTimerExpiry v1 => Sys2Proof.Machine.execSilenceTimerExpiry v1 s
  | .dwellTimerExpiry v1 => Sys2Proof.Machine.execDwellTimerExpiry v1 s
  | .markPulseEnd v1 => Sys2Proof.Machine.execMarkPulseEnd v1 s
  | .compositionCompletion v1 => Sys2Proof.Machine.execCompositionCompletion v1 s
  | .reevaluation v1 => Sys2Proof.Machine.execReevaluation v1 s
  | .interlockChange v1 v2 => Sys2Proof.Machine.execInterlockChange v1 v2 s

end Sys2Proof.Machine
end

