-- ==== Sys2Proof/WellFormed.lean ====
section
/-! DEFINITION. Which terms of `Instr` are the events their rows name: a request that its port lists, in a frame whose
length agrees with its fields; a transaction that ends the way its row says. A term that is not well formed is
still given the answer the manual gives it. -/

namespace Sys2Proof

/-- The port a request arrives on; none for the commands that are no request. -/
def requestPort : Instr → Option Port
  | .identify p => some p
  | .fetchNotice p => some p
  | .headStatus p _ => some p
  | .readRecord p _ => some p
  | .restart p => some p
  | .setBlock p _ => some p
  | .endTransfer p => some p
  | .mapEdit p => some p
  | .mapActivate p => some p
  | .writeSite p _ _ => some p
  | .clearSite p _ => some p
  | .writePins p _ _ _ => some p
  | .setKeepout p _ => some p
  | .lockSites p _ _ => some p
  | .unlockSites p _ _ => some p
  | .disposeSite p _ => some p
  | .writeProfile p _ _ _ _ _ => some p
  | .clearProfile p _ _ => some p
  | .copyBank p => some p
  | .readProfile p _ _ _ => some p
  | .swapBanks p => some p
  | .setTool p _ _ _ _ => some p
  | .setHead p _ _ _ => some p
  | .keepSettings p _ => some p
  | .setLine p _ _ _ => some p
  | .claim p _ _ _ => some p
  | .release p => some p
  | .cancelWait p => some p
  | .arm p => some p
  | .start p => some p
  | .abort p _ => some p
  | .resume p _ => some p
  | .headClear p _ => some p
  | .readPins p _ _ _ => some p
  | .readSites p _ _ => some p
  | .armWatch p _ _ _ => some p
  | .disarmWatch p _ => some p
  | .readTrace p _ => some p
  | .hardReset => none
  | .discardedFrame _ _ => none
  | .incompleteFrame _ _ => none
  | .unknown _ _ => none
  | .replyRead _ => none
  | .sampleFrame _ _ => none
  | .silenceTimerExpiry _ => none
  | .dwellTimerExpiry _ => none
  | .markPulseEnd _ => none
  | .compositionCompletion _ => none
  | .reevaluation _ => none
  | .interlockChange _ _ => none

/-- The port lists the request (R177 case 2). -/
def portTakes (i : Instr) : Bool :=
  match requestPort i with
  | some p => codeListed p (requestCode i)
  | none => true

/-- The frame's length agrees with its fields (R177 case 3). -/
def fieldsAgree (i : Instr) : Bool :=
  match requestPort i with
  | some p => lengthAgrees p i
  | none => true

/-- The frame's length field can hold its length (R177 case 1). -/
def frameFits (i : Instr) : Bool := decide (frameLength i ≤ 256)

/-- Whether a transaction's frame arrives (R175, R186). -/
def arrives (bytes : List Byte) : Bool :=
  match readTransaction bytes with
  | .badLength => true
  | .frame _ _ => true
  | .nothing => false
  | .read _ => false
  | .incomplete => false

/-- Whether the port answers a transaction's frame itself (R177 cases 1 to 3). -/
def answeredByPort (p : Port) (bytes : List Byte) : Bool :=
  match readTransaction bytes with
  | .badLength => true
  | .frame code fields =>
    match parseRequest p code fields with
    | some i => !(codeListed p code && lengthAgrees p i)
    | none => true
  | .nothing => false
  | .read _ => false
  | .incomplete => false

/-- The transaction of a row about frames, carried whole, ends the way the row says; a sample frame holds at least one byte. A
part of a transaction (log entry 7) is not judged here: what it is depends on the bytes before it. -/
def transactionFits : Instr → Bool
  | .discardedFrame _ bytes => arrives bytes
  | .incompleteFrame _ bytes => decide (readTransaction bytes = .incomplete)
  | .unknown p bytes => answeredByPort p bytes
  | .sampleFrame _ bytes => !bytes.isEmpty
  | _ => true

/-- A command that is the event its row names. -/
def wellFormed (i : Instr) : Bool := portTakes i && fieldsAgree i && frameFits i && transactionFits i

end Sys2Proof
end

