-- ==== Sys2Proof/Safety.lean ====
section
/-! DEFINITION. What a sound state of the part is, in the words of the manual's laws, and the forms in which the
statements speak of a reply, of an emptied record and of a verdict event. -/

namespace Sys2Proof.Machine

/-! ## Replies -/

/-- A port that takes a request: no pending reply and no open transfer (R176). -/
abbrev portFree (u : PortUnit) : Prop := u.reply = none ∧ u.transfer = none

/-- A state with a single reply pending on a port, which has no frame in reception left (R177): a write that stood there short
of its frame's last byte was discarded as incomplete and set the DISCARDED mark (R175). -/
def State.withReply (s : State) (p : Port) (code : Byte) (status : Status) (payload : List Byte) : State :=
  s.modPort p (fun u =>
    { u with
        reply := some { code := code, status := status, more := false, payload := payload },
        discarded := u.discarded || leftShort u, reception := none })

/-- A state with a frame discarded on a port (R176). -/
def State.withMark (s : State) (p : Port) : State :=
  s.modPort p (fun u => { u with discarded := true, reception := none })

/-- The bytes a port has of a transaction: those received before, and these; none of one that RESTART has dropped (R174,
R182). -/
def clockedBytes (u : PortUnit) (bytes : List Byte) : List Byte :=
  match u.reception with
  | none => bytes
  | some (.bytes got) => got ++ bytes
  | some (.lapsed _) => []

/-- Whether a transaction in progress is a read, of which RESTART leaves only 00 to clock out (R182). -/
def readsOn : Reception → Bool
  | .bytes got => got.head? = some 0xC2
  | .lapsed read => read

/-- The state after the master of the Cell Port has read so many replies. -/
def readCell : Nat → State → Option State
  | 0, s => some s
  | n + 1, s =>
    match exec (.replyRead .cell) s with
    | .next t => readCell n t
    | .fault _ => none
    | .refused _ => none

/-! ## Laws that stand by themselves -/

/-- The law of a notice queue: at most 16 notices, every URGENT one before every NORMAL one (R184). -/
abbrev queueLaw (q : NoticeQueue) : Prop :=
  q.items.length ≤ 16 ∧ List.Pairwise (fun m n => urgent n = true → urgent m = true) q.items

/-- The law of the head lines: PERMIT is never active while STOP is asserted (R141). -/
abbrev permitLaw (u : HeadUnit) : Prop := permitLevel u = true → stopLevel u = false

/-- FORCE_ON stands in MAP_EDIT only (R11, R142). -/
abbrev forcedLaw (s : State) : Prop := s.forcedOn = true → s.map.mode = .edit

/-- The active bank is bank 0 when the generation is even and bank 1 when it is odd (R60). -/
abbrev generationLaw (l : Library) : Prop := l.active = .zero ↔ l.generation.toNat % 2 = 0

/-- Every numeric setting lies within its range (R27). -/
abbrev snapshotLaw (t : Snapshot) : Prop :=
  (10 ≤ t.stationPitch ∧ t.stationPitch ≤ 200) ∧ t.guard ≤ 250 ∧ t.excursionAllowance ≤ 15 ∧
    (100 ≤ t.contactThreshold ∧ t.contactThreshold ≤ 1000000) ∧ t.dwell ≤ 5000 ∧
    (100 ≤ t.retractClearance ∧ t.retractClearance ≤ 20000) ∧ (1 ≤ t.linkTimeout ∧ t.linkTimeout ≤ 50) ∧
    (50 ≤ t.verifyPercent ∧ t.verifyPercent ≤ 100) ∧ (20 ≤ t.verifyTravel ∧ t.verifyTravel ≤ 500) ∧
    (1 ≤ t.headCeiling ∧ t.headCeiling ≤ 268435455)

/-- A tool description within its ranges, with one entry for each installed lane (R23). -/
abbrev toolLaw (t : Tool) : Prop :=
  t.laneCount ≤ 16 ∧ t.toolCode ≤ 7 ∧ t.lanes.length = t.laneCount ∧
    ∀ l ∈ t.lanes, (1 ≤ l.gain ∧ l.gain ≤ 65535) ∧ (1 ≤ l.ceiling ∧ l.ceiling ≤ 16777215)

/-- A present profile within its ranges, its depths strictly rising (R61). -/
abbrev profileLaw (p : Profile) : Prop :=
  (2 ≤ p.points.length ∧ p.points.length ≤ 8) ∧ (1 ≤ p.seatForce ∧ p.seatForce ≤ 20000) ∧
    (∀ b ∈ p.points, b.depth ≤ 6000 ∧ b.lower ≤ b.upper ∧ b.upper ≤ 20000) ∧
    List.Pairwise (fun b c => b.depth < c.depth) p.points

/-- Every profile of a bank satisfies R61. -/
abbrev bankLaw (t : Table (Option Profile)) : Prop := ∀ e ∈ t, ∀ p, e.2 = some p → profileLaw p

/-- A site record whose fields lie in their stored ranges (R1). -/
abbrev siteLaw (x : Site) : Prop :=
  x.x ≤ 65535 ∧ x.y ≤ 65535 ∧ x.toolCode ≤ 7 ∧ x.firstPin ≤ 65535 ∧ x.pinCount ≤ 65535 ∧
    (100 ≤ x.seatDepth ∧ x.seatDepth ≤ 6000) ∧ x.seatTolerance ≤ 1000

/-- A pin record whose fields lie in their ranges (R4). -/
abbrev pinLaw (p : Pin) : Prop :=
  p.lane ≤ 15 ∧ p.pinType ≤ 3 ∧ p.holeClass ≤ 7 ∧ p.entryOffset ≤ 2000 ∧ p.row ≤ 255 ∧ p.column ≤ 255

/-- What a watch slot holds in each of its states (R168). -/
abbrev slotLaw (w : WatchSlot) : Prop :=
  (w.matchSite.isSome ↔ w.state ≠ .empty) ∧ (w.matchLane.isSome ↔ w.state ≠ .empty) ∧
    (w.source.isSome ↔ w.state = .filling ∨ w.state = .full) ∧ (w.outcome.isSome ↔ w.state = .full) ∧
    (w.state = .empty ∨ w.state = .armed → w.trace = [])

/-- The canonical form of every sparse table. -/
abbrev tablesLaw (s : State) : Prop :=
  Table.wf Site.undefined s.map.sites = true ∧ Table.wf Pin.blank s.map.pins = true ∧
    Table.wf false s.map.locks = true ∧ Table.wf none s.library.bank0 = true ∧
    Table.wf none s.library.bank1 = true ∧ Table.wf PressRecord.emptyForm s.records = true ∧
    Table.wf PinVerdict.noVerdict s.verdicts = true

/-- The laws of the part that each stand by themselves. -/
structure PartLaw (s : State) : Prop where
  cellQueue : queueLaw s.cell.queue
  queueA : queueLaw s.portA.queue
  queueB : queueLaw s.portB.queue
  permitA : permitLaw s.headA
  permitB : permitLaw s.headB
  forced : forcedLaw s
  generation : generationLaw s.library
  settingsA : snapshotLaw s.headA.settings.judged
  settingsB : snapshotLaw s.headB.settings.judged
  toolA : toolLaw s.headA.tool
  toolB : toolLaw s.headB.tool
  bank0 : bankLaw s.library.bank0
  bank1 : bankLaw s.library.bank1
  sites : ∀ i, siteLaw (s.site i)
  pins : ∀ k, pinLaw (s.pin k)
  slot0 : slotLaw s.slot0
  slot1 : slotLaw s.slot1
  blocks : s.blockSize = 4 ∨ s.blockSize = 8 ∨ s.blockSize = 16 ∨ s.blockSize = 32
  /-- A pending swap waits for an engine: it takes place in the event that makes the second engine IDLE (R70, R71). -/
  swap : s.library.swapPending = true → s.bothIdle = false
  tables : tablesLaw s

/-! ## The law of the Arbiter and the map -/

/-- Whether an engine is in a state of a stroke. -/
def strokeRuns : Engine → Bool
  | .idle => false
  | .composing _ => false
  | .armed _ _ => false
  | .stroke _ _ _ _ => true

/-- What a head's claim, engine and wait say of each other and of its site (R2, R37, R38). -/
structure HeadLaw (s : State) (h : Head) : Prop where
  /-- The site of a claim names its holder and its prior state, and is CLAIMED or PRESSING as the engine is out of a stroke or
  in one. -/
  holds : ∀ c, (s.head h).claim = some c →
    c.site < 64 ∧ (s.site c.site).holder = some h ∧ (s.site c.site).prior = some (priorOf c.kind) ∧
      (s.site c.site).state = if strokeRuns (s.head h).engine then .pressing else .claimed
  /-- An engine out of IDLE works on the site and the kind of its head's claim. -/
  works : ∀ job, engineJob (s.head h).engine = some job → (s.head h).claim = some { site := job.site, kind := job.kind }
  /-- A head that waits holds no site. -/
  waits : (s.head h).waiting.isSome → (s.head h).claim = none

/-- The laws of the site table, of the Arbiter, of the lock flags and of MAP_EDIT (R2, R14, R15, R37, R38, R45). -/
structure ArbiterLaw (s : State) : Prop where
  headA : HeadLaw s .a
  headB : HeadLaw s .b
  /-- Every held site is the site of a claim. -/
  held : ∀ i, siteHeld (s.site i) = true → ∃ h c, (s.head h).claim = some c ∧ c.site = i
  /-- A site that is not held has no holder and no prior state. -/
  free : ∀ i, siteHeld (s.site i) = false → (s.site i).holder = none ∧ (s.site i).prior = none
  /-- At most one head waits. -/
  oneWait : s.headA.waiting = none ∨ s.headB.waiting = none
  /-- Two held sites are different and keep their distance. -/
  apart : ∀ c d, s.headA.claim = some c → s.headB.claim = some d → c.site ≠ d.site ∧ s.conflict c.site d.site = false
  /-- A locked site is not held. -/
  locks : ∀ i, s.locked i = true → siteHeld (s.site i) = false
  /-- In MAP_EDIT nothing is held, nothing waits and both engines are IDLE. -/
  edit : s.map.mode = .edit →
    (∀ i, siteHeld (s.site i) = false) ∧ s.headA.waiting = none ∧ s.headB.waiting = none ∧
      s.headA.engine = .idle ∧ s.headB.engine = .idle

/-! ## The law of a stroke and of the records -/

/-- The counts of a stroke: no lane has more excursions than stations evaluated, and no more than S stations are (R118,
R119). -/
structure CountLaw (env : Envelope) (ctx : Stroke) : Prop where
  stations : ctx.stationIndex ≤ env.stationCount.getD 0
  limit : env.stationCount.getD 0 ≤ 128
  excursions : ∀ l ∈ ctx.lanes, l.excursions ≤ ctx.stationIndex

/-- What a stroke holds in each of its states (R106, R111, R115, R127). -/
structure StrokeLaw (ph : Phase) (env : Envelope) (ctx : Stroke) : Prop where
  counts : CountLaw env ctx
  tare : ctx.tareCount ≤ 8
  zeros : ctx.tareZeros.isSome ↔ ctx.tareCount = 8
  approach : ∀ held, phaseLive ph = some (held, .approach) →
    ctx.contact = none ∧ ctx.stationIndex = 0 ∧ ctx.outcome = none
  engaged : ∀ held l, phaseLive ph = some (held, l) → l ≠ .approach →
    ctx.contact.isSome ∧ ctx.tareZeros.isSome ∧ ctx.outcome = none
  ended : phaseLive ph = none → ctx.outcome.isSome

/-- The law of an engine: what it holds in each of its states. -/
def engineLaw : Engine → Prop
  | .idle => True
  | .composing _ => True
  | .armed _ env => env.stationCount.getD 0 ≤ 128
  | .stroke ph _ env ctx => StrokeLaw ph env ctx

/-- The law of the Press Record: each lane's excursion count is at most the stations evaluated, and at most 128 (R119). -/
abbrev recordLaw (r : PressRecord) : Prop := r.stations ≤ 128 ∧ ∀ l ∈ r.lanes, l.excursions ≤ r.stations

/-- The law of both engines and of every record. -/
structure WorkLaw (s : State) : Prop where
  engineA : engineLaw s.headA.engine
  engineB : engineLaw s.headB.engine
  records : ∀ i, recordLaw (s.record i)

/-! ## Invalidation (R9) -/

/-- Whether an index lies in a span. -/
abbrev inSpan (span : Nat × Nat) (k : Nat) : Prop := span.1 ≤ k ∧ k < span.1 + span.2

/-- The sites that an invalidation of a span reaches: the defined sites that contain one of its pins, and those that contain
a pin of a site reached. -/
inductive Reached (s : State) (span : Nat × Nat) : Nat → Prop where
  | direct (i k : Nat) (hi : i < 64) (hd : (s.site i).state ≠ .unused) (hs : inSpan span k)
      (hk : inSpan (pinSpan (s.site i)) k) : Reached s span i
  | chain (i j k : Nat) (hr : Reached s span i) (hj : j < 64) (hd : (s.site j).state ≠ .unused)
      (hs : inSpan (pinSpan (s.site i)) k) (hk : inSpan (pinSpan (s.site j)) k) : Reached s span j

/-- The records and verdicts `t` holds after an invalidation of a span judged on the map of `u`, from those `s` held: a record
in its empty form for each site reached and for the one named, the verdict NONE for each pin of the span and of each
site reached, and every other record and verdict as it was. -/
structure Emptied (u : State) (span : Nat × Nat) (named : Option Nat) (s t : State) : Prop where
  recordGone : ∀ i, some i = named ∨ Reached u span i → t.record i = PressRecord.emptyForm
  recordKept : ∀ i, ¬ (some i = named ∨ Reached u span i) → t.record i = s.record i
  verdictGone : ∀ k, (inSpan span k ∨ ∃ i, Reached u span i ∧ inSpan (pinSpan (u.site i)) k) → t.verdict k = .noVerdict
  verdictKept : ∀ k, ¬ (inSpan span k ∨ ∃ i, Reached u span i ∧ inSpan (pinSpan (u.site i)) k) →
    t.verdict k = s.verdict k

/-! ## The verdict event (R127, R158) -/

/-- The lane summary that the record of a stroke holds for a lane (R157). -/
def summaryOf (job : Job) (offending : List Nat) (lane : Nat) (used : Bool) (l : LaneTally) : LaneSummary :=
  { used := used, peak := l.peak, excursions := l.excursions, first := l.first,
    verdict :=
      if used then
        (if job.settings.excursionAllowance < l.excursions ∨ lane ∈ offending then .fail else .pass)
      else .unused }

/-- A watch slot at the end of a stroke of head `h`: FULL with the outcome where it was filling from that stroke (R172). -/
def slotAfter (h : Head) (o : StrokeOutcome) (w : WatchSlot) : WatchSlot :=
  if fillingFrom h w then { w with state := .full, outcome := some o } else w

/-- The TRACE_FULL notice of a slot that was filling from a stroke of head `h` (R172). -/
def slotNotice (h : Head) (o : StrokeOutcome) (k : Nat) (w : WatchSlot) : List Notice :=
  if fillingFrom h w then
    [{ kind := .traceFull, head := w.source.map WatchSource.head, site := w.source.map WatchSource.site,
       reason := some (outcomeCode o), station := some k, lane := w.matchLane }]
  else []

/-- What a verdict event leaves in `t`, from `s`: the record and the pin verdicts of the site, every other record and
verdict as it was, and the watch slots. -/
structure VerdictLeft (s : State) (h : Head) (job : Job) (env : Envelope) (ctx : Stroke) (o : StrokeOutcome)
    (t : State) : Prop where
  record : ∃ lanes, t.record job.site =
      { head := some h, kind := some job.kind, outcome := o, bankGeneration := job.bankGeneration,
        mapGeneration := s.map.generation, contact := ctx.contact, seatedDepth := ctx.seatedDepth,
        peakTotal := ctx.peakTotal, maxDepth := ctx.maxDepth, stations := ctx.stationIndex, coarse := ctx.coarse,
        faultLane := ctx.faultLane, faultStation := ctx.faultStation, lanes := lanes } ∧
    lanes.length = min env.lanes.length ctx.lanes.length ∧
    ∀ k e l, env.lanes[k]? = some e → ctx.lanes[k]? = some l →
      lanes[k]? = some (summaryOf job ctx.offending k e.used l)
  otherRecords : ∀ i, i ≠ job.site → t.record i = s.record i
  pins : ∀ k, inSpan (pinSpan (s.site job.site)) k → t.verdict k = pinVerdict job ctx o (s.pin k) (s.verdict k)
  otherPins : ∀ k, ¬ inSpan (pinSpan (s.site job.site)) k → t.verdict k = s.verdict k
  slot0 : t.slot0 = slotAfter h o s.slot0
  slot1 : t.slot1 = slotAfter h o s.slot1

/-- The queue that `q` becomes when notices arrive one after another. -/
def arrivals (q : NoticeQueue) (ns : List Notice) : NoticeQueue := ns.foldl arrive q

/-- The queues after a verdict event of head `h` with this verdict notice: its copy on the head's port and on the Cell Port,
where the TRACE_FULL notices follow, slot 0's first (R127, R172, R183). -/
structure VerdictTold (s : State) (h : Head) (o : StrokeOutcome) (first : List Notice) (last : List Notice)
    (t : State) : Prop where
  cell : t.cell.queue = arrivals s.cell.queue (first ++ slotNotice h o 0 s.slot0 ++ slotNotice h o 1 s.slot1 ++ last)
  port : (t.port (headPort h)).queue = arrivals (s.port (headPort h)).queue (first ++ last)
  other : (t.port (headPort (otherHead h))).queue = (s.port (headPort (otherHead h))).queue

/-- What stays as it was of a port whose queue alone may have taken notices, and whose open transfer may have been
overtaken. -/
def portKept (before after : PortUnit) : Prop :=
  after.reply = before.reply ∧ after.discarded = before.discarded ∧ after.reception = before.reception ∧
    after.wire = before.wire ∧ (before.transfer = none → after.transfer = none)

/-! ## Activation (R12) -/

/-- The code of a head in a field that names it (12.6). -/
def headByte : Head → Byte
  | .a => 0
  | .b => 1

/-- A defined site of the table (R1). -/
abbrev definedAt (s : State) (i : Nat) : Prop := i < 64 ∧ (s.site i).state ≠ .unused

/-- Whether the ranges of two sites, as written, share an index. -/
abbrev rangesShare (s : State) (i j : Nat) : Prop :=
  ∃ k, inSpan ((s.site i).firstPin, (s.site i).pinCount) k ∧ inSpan ((s.site j).firstPin, (s.site j).pinCount) k

/-- A site fails a check of the activation, having passed those before it; for OVERLAP with the lowest-indexed other site. -/
inductive SiteFails (s : State) (i : Nat) : MapCheck → Option Nat → Prop where
  | pinRange (h1 : 4096 < (s.site i).firstPin + (s.site i).pinCount) : SiteFails s i .pinRange none
  | pinCount (h1 : (s.site i).firstPin + (s.site i).pinCount ≤ 4096)
      (h2 : (s.site i).pinCount = 0 ∨ 512 < (s.site i).pinCount) : SiteFails s i .pinCount none
  | overlap (j : Nat) (h1 : (s.site i).firstPin + (s.site i).pinCount ≤ 4096)
      (h2 : 1 ≤ (s.site i).pinCount ∧ (s.site i).pinCount ≤ 512) (hj : definedAt s j) (hne : j ≠ i)
      (h3 : rangesShare s i j) (hlow : ∀ m, m < j → definedAt s m → m ≠ i → ¬ rangesShare s i m) :
      SiteFails s i .overlap (some j)
  | noLivePin (h1 : (s.site i).firstPin + (s.site i).pinCount ≤ 4096)
      (h2 : 1 ≤ (s.site i).pinCount ∧ (s.site i).pinCount ≤ 512)
      (h3 : ∀ j, definedAt s j → j ≠ i → ¬ rangesShare s i j)
      (h4 : ∀ k, inSpan ((s.site i).firstPin, (s.site i).pinCount) k → (s.pin k).live = false) :
      SiteFails s i .noLivePin none

/-- A site passes the four checks of the activation. -/
structure SitePasses (s : State) (i : Nat) : Prop where
  range : (s.site i).firstPin + (s.site i).pinCount ≤ 4096
  count : 1 ≤ (s.site i).pinCount ∧ (s.site i).pinCount ≤ 512
  alone : ∀ j, definedAt s j → j ≠ i → ¬ rangesShare s i j
  live : ∃ k, inSpan ((s.site i).firstPin, (s.site i).pinCount) k ∧ (s.pin k).live = true

/-! ## Profiles and settings (R27, R64) -/

/-- The first of its four conditions that the breakpoint at a place fails (R64). -/
def entryFault (points : List Breakpoint) (k : Nat) : Option ProfileFault :=
  match points[k]? with
  | none => none
  | some b =>
    if 6000 < b.depth then some .depthRange
    else if 0 < k ∧ b.depth ≤ ((points[k - 1]?).map Breakpoint.depth).getD 0 then some .depthOrder
    else if 20000 < b.lower ∨ 20000 < b.upper then some .forceRange
    else if b.upper < b.lower then some .boundsOrder
    else none

/-- The numeric settings with their identifiers and ranges (R27, R187). -/
def numericSettings : List (Nat × Nat × Nat × (Settings → Nat)) :=
  [(0, 10, 200, fun t => t.judged.stationPitch), (1, 0, 250, fun t => t.judged.guard),
   (2, 0, 15, fun t => t.judged.excursionAllowance), (4, 100, 1000000, fun t => t.judged.contactThreshold),
   (5, 0, 5000, fun t => t.judged.dwell), (6, 100, 20000, fun t => t.judged.retractClearance),
   (7, 1, 50, fun t => t.judged.linkTimeout), (8, 50, 100, fun t => t.judged.verifyPercent),
   (9, 20, 500, fun t => t.judged.verifyTravel), (10, 1, 268435455, fun t => t.judged.headCeiling)]

/-! ## Claims (R39, R44) -/

/-- Checks 1 to 8 of a claim in their order, each with whether it fails and the status that answers it. `busy` is what check 3
reads; `kind` and `wait` are the codes of the two fields. -/
def claimChecks (s : State) (h : Head) (busy : Bool) (i kind wait : Nat) : List (Bool × Status) :=
  [(decide (s.map.mode = .edit), .mapState),
   ((s.head h).lines.stop, .stopped),
   (busy, .holdsClaim),
   (decide (63 < i ∨ (s.site i).state = .unused ∨ 1 < kind ∨ 1 < wait), .range),
   (s.locked i, .locked),
   (decide ((s.site i).holder = some (otherHead h)), .taken),
   (decide (kind = 0 ∧ (s.site i).state ≠ .pending ∨ kind = 1 ∧ (s.site i).state ≠ .seated), .refusedState),
   (decide ((s.head h).tool.laneCount = 0 ∨ (s.site i).toolCode ≠ (s.head h).tool.toolCode), .toolMismatch)]

/-- The status of the first check that fails; none where all pass. -/
def firstRefusal : List (Bool × Status) → Option Status
  | [] => none
  | (fails, st) :: rest => if fails then some st else firstRefusal rest

/-- Check 9 fails against a site: the other head's claim holds it, keep-out is on, the sites are different, and the larger of
their separations is less than the distance. -/
def Blocks (s : State) (h : Head) (i j : Nat) : Prop :=
  (∃ c, (s.head (otherHead h)).claim = some c ∧ c.site = j) ∧ s.map.keepOut ≠ 0 ∧ i ≠ j ∧
    |((s.site i).x : Int) - (s.site j).x| < s.map.keepOut ∧ |((s.site i).y : Int) - (s.site j).y| < s.map.keepOut

/-- A claim granted: the site CLAIMED with holder and prior state, every other site as it was (R2, R46). -/
structure SiteGranted (s : State) (h : Head) (i : Nat) (k : Kind) (t : State) : Prop where
  site : t.site i =
    { s.site i with
        state := .claimed, holder := some h,
        prior := some (match k with
          | .press => .pending
          | .verify => .seated) }
  others : ∀ j, j ≠ i → t.site j = s.site j

/-! ## An engine entering IDLE, and the swap that may follow (R70, R71) -/

/-- Whether a swap takes place when the engine of head `h` enters IDLE: it is pending, and the other engine is IDLE. -/
def swapFollows (s : State) (h : Head) : Bool :=
  s.library.swapPending && decide ((s.head (otherHead h)).engine = .idle)

/-- The library after a swap that follows, or as it was. -/
def libraryAfter (s : State) (h : Head) : Library :=
  if swapFollows s h then
    { s.library with
        active := otherBank s.library.active, generation := s.library.generation + 1, swapPending := false }
  else s.library

/-- The SWAP_DONE notice of a swap that follows. -/
def swapNotices (s : State) (h : Head) : List Notice :=
  if swapFollows s h then
    [{ kind := .swapDone, head := none, site := none, reason := none,
       station := some (s.library.generation + 1).toNat, lane := none }]
  else []

/-- What the end of a head's work does to a site. -/
inductive SiteFate where
  /-- The site table, and the claim, stay as they were. -/
  | untouched
  /-- The site returns to CLAIMED, with its holder and prior state, and the claim is kept. -/
  | claimedAgain (i : Nat)
  /-- The site is released into this state, and the claim is gone. -/
  | released (i : Nat) (state : SiteState)

/-- The site record that a fate gives an index. -/
def SiteFate.site (f : SiteFate) (s : State) (i : Nat) : Site :=
  match f with
  | .untouched => s.site i
  | .claimedAgain j => if i = j then { s.site i with state := .claimed } else s.site i
  | .released j st => if i = j then { s.site i with state := st, holder := none, prior := none } else s.site i

/-- Whether a fate releases a site. -/
def SiteFate.releases : SiteFate → Bool
  | .untouched => false
  | .claimedAgain _ => false
  | .released _ _ => true

/-- A waiting claim after the other head's site has been released, or not (R49). -/
def waitAfter (released : Bool) (w : Option Wait) : Option Wait :=
  if released then w.map (fun r => { r with due := true }) else w

/-- The engine of head `h` enters IDLE in `t`, from `s`: its table, snapshot and context gone, its silence timer stopped, the site
of its claim by its fate, these notices posted to its port and the Cell Port, and then a swap that follows. -/
structure EndsIdle (s : State) (h : Head) (fate : SiteFate) (ns : List Notice) (t : State) : Prop where
  frame : t = { s with
    map := { s.map with sites := t.map.sites }, library := t.library, headA := t.headA, headB := t.headB,
    records := t.records, verdicts := t.verdicts, slot0 := t.slot0, slot1 := t.slot1,
    cell := t.cell, portA := t.portA, portB := t.portB }
  own : t.head h =
    { s.head h with
        engine := .idle, link := { (s.head h).link with silence := none },
        claim := if fate.releases then none else (s.head h).claim }
  other : t.head (otherHead h) =
    { s.head (otherHead h) with waiting := waitAfter fate.releases (s.head (otherHead h)).waiting }
  sites : ∀ i, t.site i = fate.site s i
  library : t.library = libraryAfter s h
  cell : t.cell.queue = arrivals s.cell.queue (ns ++ swapNotices s h)
  port : (t.port (headPort h)).queue = arrivals (s.port (headPort h)).queue (ns ++ swapNotices s h)
  otherPort : (t.port (headPort (otherHead h))).queue =
    arrivals (s.port (headPort (otherHead h))).queue (swapNotices s h)
  ports : ∀ p, portKept (s.port p) (t.port p)

/-- The Record Store, the watch slots and the open transfer are as they were. -/
abbrev storeKept (s t : State) : Prop :=
  t.records = s.records ∧ t.verdicts = s.verdicts ∧ t.slot0 = s.slot0 ∧ t.slot1 = s.slot1 ∧
    t.cell.transfer = s.cell.transfer

/-! ## Outcomes and faults of a stroke -/

/-- What the verdict event of a stroke leaves as it was, but for the head's own engine, lines and silence timer. -/
structure StrokeKept (s t : State) (h : Head) : Prop where
  frame : t = { s with
    headA := t.headA, headB := t.headB, records := t.records, verdicts := t.verdicts, slot0 := t.slot0,
    slot1 := t.slot1, cell := t.cell, portA := t.portA, portB := t.portB }
  other : t.head (otherHead h) = s.head (otherHead h)
  ports : ∀ p, portKept (s.port p) (t.port p)

/-- An open transfer after a write of a site's Press Record: a READ_PINS of that site whose last block has not been formed is
overtaken (R165). -/
def transferAfter (site : Nat) (before : Option Transfer) : Option Transfer :=
  before.map (fun x =>
    match x.kind with
    | .pins i _ => if i = site ∧ x.formed < x.count then { x with overtaken := true } else x
    | .sites _ => x
    | .trace _ => x)

/-- The STROKE_VERDICT notice of an outcome (R127). -/
def verdictOf (h : Head) (job : Job) (o : StrokeOutcome) : Notice :=
  { kind := .strokeVerdict, head := some h, site := some job.site, reason := some (outcomeCode o), station := none,
    lane := none }

/-- A stroke reaches an outcome that is no fault: its verdict event, which overtakes a READ_PINS of the site, and RETRACT with
its target (R127, R128, R165). `before` are the notices that the event posts first. -/
structure Concludes (s : State) (h : Head) (job : Job) (env : Envelope) (ctx : Stroke) (o : StrokeOutcome)
    (before : List Notice) (t : State) : Prop where
  kept : StrokeKept s t h
  left : VerdictLeft s h job env ctx o t
  told : VerdictTold s h o (before ++ [verdictOf h job o]) [] t
  overtaken : t.cell.transfer = transferAfter job.site s.cell.transfer
  own : t.head h =
    { s.head h with
        engine :=
          .stroke .retract job env
            { ctx with
                outcome := some o,
                retractTarget :=
                  match ctx.contact with
                  | some c => some (c - job.settings.retractClearance)
                  | none => ctx.startDisplacement } }

/-- The stroke context of a fault (R116, R132). -/
def faulted (ctx : Stroke) (o : StrokeOutcome) (offending : List Nat) (lane : Option Nat) : Stroke :=
  { ctx with
      outcome := some o, offending := offending, faultLane := lane,
      faultStation := if ctx.stationIndex = 0 then none else some (ctx.stationIndex - 1) }

/-- The STROKE_FAULT notice of a fault before the verdict (R127, R132). -/
def faultOf (h : Head) (job : Job) (ctx : Stroke) (o : StrokeOutcome) (lane : Option Nat) : Notice :=
  { kind := .strokeFault, head := some h, site := some job.site, reason := some (outcomeCode o),
    station := if ctx.stationIndex = 0 then none else some (ctx.stationIndex - 1), lane := lane }

/-- A head unit after a fault: STOP asserted, which returns the override to ENGINE, the silence timer stopped, the engine
FAULTED (R132, R143). -/
def faultedUnit (u : HeadUnit) (job : Job) (env : Envelope) (ctx : Stroke) : HeadUnit :=
  { u with
      engine := .stroke .faulted job env ctx, lines := { u.lines with stop := true, override := .engine },
      link := { u.link with silence := none } }

/-- A stroke faults before its verdict, in a verdict event that overtakes a READ_PINS of the site (R132, R165). -/
structure Faults (s : State) (h : Head) (job : Job) (env : Envelope) (ctx : Stroke) (o : StrokeOutcome)
    (offending : List Nat) (lane : Option Nat) (t : State) : Prop where
  kept : StrokeKept s t h
  left : VerdictLeft s h job env (faulted ctx o offending lane) o t
  told : VerdictTold s h o [faultOf h job ctx o lane] [] t
  overtaken : t.cell.transfer = transferAfter job.site s.cell.transfer
  own : t.head h = faultedUnit (s.head h) job env (faulted ctx o offending lane)

/-! ## Sample frames (R98, R99, R106, R108, R118, R119) -/

/-- The bytes are a sound frame that is no duplicate, on a link whose receiver has begun (R97, R98, R99). -/
abbrev accepts (s : State) (h : Head) (bytes : List Byte) (f : Sample) : Prop :=
  (s.head h).link.awaitIdle = false ∧ decodeSample bytes = some f ∧
    ∀ g, (s.head h).link.lastFrame = some g → g.sequence ≠ f.sequence

/-- The receiver's updates at an acceptance (R99, R103). -/
def received (s : State) (h : Head) (f : Sample) : State :=
  s.modHead h (fun u =>
    { u with
        link :=
          { u.link with
              lastFrame := some f, sinceAccepted := some 0,
              silence := u.link.silence.map (fun _ => linkTimeout u * 1000) } })

/-- A sensor fault: the encoder fault flag, or a lane count that is not the tool's (R101). -/
abbrev faultyFrame (tool : Tool) (f : Sample) : Prop := f.encoderFault = true ∨ f.laneCount ≠ tool.laneCount

/-- The stations that a frame at relative depth `d` reaches, in ascending order (R118). -/
def reachedStations (count index pitch : Nat) (d : Int) : List Nat :=
  (List.range count).filter (fun k => decide (index ≤ k ∧ ((k * pitch : Nat) : Int) ≤ d))

/-- The stations among these at which a lane of the table has an excursion (R119). -/
def excursionsOf (ks : List Nat) (e : EnvelopeLane) (force : Nat) : List Nat :=
  if e.used then
    ks.filter (fun k =>
      match e.bounds.bind (fun bs => bs[k]?) with
      | some b => decide (force < b.lower ∨ b.upper < force)
      | none => false)
  else []

/-- The tally of a lane with these excursions added (R119). -/
def talliedWith (l : LaneTally) (ks : List Nat) : LaneTally :=
  { l with excursions := l.excursions + ks.length, first := if l.first = none then ks.head? else l.first }

/-- The trace entries of a lane at these stations (R171). -/
def entriesOf (env : Envelope) (ks : List Nat) (lane : Nat) (displacement : Int) (force : Nat) : List TraceEntry :=
  ks.filterMap (fun k =>
    (((env.lanes[lane]?).bind EnvelopeLane.bounds).bind (fun bs => bs[k]?)).map (fun b =>
      { station := k, displacement := displacement, measured := force, lower := b.lower, upper := b.upper }))

/-- A watch slot after the stations of a frame of head `h` (R171). -/
def slotTraced (h : Head) (env : Envelope) (ks : List Nat) (displacement : Int) (forces : List Nat) (w : WatchSlot) :
    WatchSlot :=
  match w.matchLane with
  | some lane =>
    if fillingFrom h w then { w with trace := w.trace ++ entriesOf env ks lane displacement ((forces[lane]?).getD 0) }
    else w
  | none => w

/-- A watch slot after the contact of a PRESS stroke of head `h` (R170). -/
def slotContacted (h : Head) (job : Job) (env : Envelope) (w : WatchSlot) : WatchSlot :=
  match w.matchLane with
  | some lane =>
    if w.state = .armed ∧ (w.matchSite = some .any ∨ w.matchSite = some (.site job.site)) ∧
        ((env.lanes[lane]?).map EnvelopeLane.used).getD false = true then
      { w with state := .filling, source := some { head := h, site := job.site } }
    else w
  | none => w

/-! ## The end of a stroke (R130, R131) -/

/-- The fate of the site of a stroke, from the outcome, the claim kind, whether contact was made, whether HEAD_CLEAR or RESTART
ended it, and the state its prior state names (R131). -/
inductive StrokeFate (site : Nat) (k : Kind) (contact cleared : Bool) (back : SiteState) :
    StrokeOutcome → SiteFate → Prop where
  | seated (hk : k = .press) : StrokeFate site k contact cleared back .seatedPass (.released site .seated)
  | verified (hk : k = .verify) : StrokeFate site k contact cleared back .verifyPass (.released site .seated)
  | rejected (o : StrokeOutcome) (hk : k = .press) (ho : o = .windowFail ∨ o = .earlySeat ∨ o = .notSeated) :
      StrokeFate site k contact cleared back o (.released site .rejected)
  | unverified (hk : k = .verify) : StrokeFate site k contact cleared back .verifyFail (.released site .rejected)
  | overforced : StrokeFate site k contact cleared back .overforce (.released site .rejected)
  | noContact : StrokeFate site k contact cleared back .noContact (.released site back)
  | cutPress (o : StrokeOutcome) (ho : o = .aborted ∨ o = .linkLost ∨ o = .sensorFault) (hc : contact = true)
      (hk : k = .press) : StrokeFate site k contact cleared back o (.released site .partialIn)
  | cutVerify (o : StrokeOutcome) (ho : o = .aborted ∨ o = .linkLost ∨ o = .sensorFault) (hc : contact = true)
      (hk : k = .verify) : StrokeFate site k contact cleared back o (.released site .seated)
  | abortedEarly (hc : contact = false) (hl : cleared = false) :
      StrokeFate site k contact cleared back .aborted (.claimedAgain site)
  | clearedEarly (hc : contact = false) (hl : cleared = true) :
      StrokeFate site k contact cleared back .aborted (.released site back)
  | lostEarly (o : StrokeOutcome) (ho : o = .linkLost ∨ o = .sensorFault) (hc : contact = false) :
      StrokeFate site k contact cleared back o (.released site back)

/-- The STROKE_DONE notice of a stroke, with the site's new state as its lane (R130). -/
def doneNotice (h : Head) (site : Nat) (o : StrokeOutcome) (st : SiteState) : Notice :=
  { kind := .strokeDone, head := some h, site := some site, reason := some (outcomeCode o), station := none,
    lane := some (siteStateCode st) }

/-- The state a fate leaves a stroke's site in. -/
def SiteFate.state : SiteFate → SiteState
  | .untouched => .pressing
  | .claimedAgain _ => .claimed
  | .released _ st => st

/-- The record, the verdicts and the watch slots after RESTART has ended the stroke of a head: a verdict event with outcome ABORTED
while the stroke had no verdict, nothing otherwise (R139). -/
def RestartVerdict (s : State) (h : Head) (t : State) : Prop :=
  (∃ ph job env ctx, (s.head h).engine = .stroke ph job env ctx ∧ (phaseLive ph).isSome ∧
    VerdictLeft s h job env ctx .aborted t) ∨
  ((∀ ph job env ctx, (s.head h).engine = .stroke ph job env ctx → phaseLive ph = none) ∧
    t.records = s.records ∧ t.verdicts = s.verdicts ∧ t.slot0 = s.slot0 ∧ t.slot1 = s.slot1)

/-- The port and the head field by which a request reaches a head: its own port, or the Cell Port naming it (R177). -/
abbrev reaches (p : Port) (field : Option Byte) (h : Head) : Prop :=
  p = headPort h ∧ field = none ∨ p = .cell ∧ field = some (headByte h)

/-- A command that concerns one head alone: what arrives on its port, its link, its timers and its interlock, and a Cell Port
request that names it. -/
inductive Concerns (h : Head) : Instr → Prop where
  | request (i : Instr) (hp : requestPort i = some (headPort h)) : Concerns h i
  | frame (i : Instr) (bytes : List Byte)
      (hi : i = .discardedFrame (headPort h) bytes ∨ i = .incompleteFrame (headPort h) bytes ∨
        i = .unknown (headPort h) bytes ∨ i = .replyRead (headPort h)) : Concerns h i
  | link (bytes : List Byte) : Concerns h (.sampleFrame h bytes)
  | event (i : Instr)
      (hi : i = .silenceTimerExpiry h ∨ i = .dwellTimerExpiry h ∨ i = .markPulseEnd h ∨ i = .compositionCompletion h ∨
        i = .reevaluation h) : Concerns h i
  | interlock (level : Bool) : Concerns h (.interlockChange h level)
  | named (i : Instr)
      (hi : i = .abort .cell (some (headByte h)) ∨ i = .resume .cell (some (headByte h)) ∨
        i = .headClear .cell (some (headByte h)) ∨ i = .headStatus .cell (some (headByte h))) : Concerns h i
  | tool (laneCount toolCode : Byte) (lanes : List LaneEntry) :
      Concerns h (.setTool .cell (headByte h) laneCount toolCode lanes)
  | setting (setting : Byte) (value : Word) : Concerns h (.setHead .cell (headByte h) setting value)
  | line (line value : Byte) : Concerns h (.setLine .cell (headByte h) line value)

end Sys2Proof.Machine
end

