-- ==== Sys2Proof/Certificates/Slice0/Obligations.lean ====
section
/-! DEFINITION. The statements for the provers. -/

open Sys2Proof Sys2Proof.Machine

/-! ## The queue of commands -/

/-- The model's choice (log entries 5 and 6): a step runs the command at the front of the queue with the queue's rest. -/
def Obligations.QueueFrontRuns : Prop :=
  ∀ (c : Instr) (rest : List Instr) (s : State),
    step { s with pending := c :: rest } = exec c { s with pending := rest }

/-- The model's choice (log entry 6): on an empty queue 1 µs passes. The time since acceptance grows, the running timers
count down, the dwell timer in DWELL alone, and the expiries that are due are queued. -/
def Obligations.IdleStepPassesMicrosecond : Prop :=
  ∀ (s : State), s.pending = [] →
    ∃ t, step s = .next t ∧ t = { s with headA := t.headA, headB := t.headB, pending := t.pending } ∧
      (∀ h, t.head h =
        { s.head h with
            engine := (t.head h).engine,
            link :=
              { (s.head h).link with
                  sinceAccepted := (s.head h).link.sinceAccepted.map (fun n => n + 1),
                  silence := (s.head h).link.silence.map (fun n => n - 1) },
            lines := { (s.head h).lines with pulse := (s.head h).lines.pulse.map (fun n => n - 1) } }) ∧
      (∀ h job env ctx, (s.head h).engine = .stroke .dwell job env ctx →
        (t.head h).engine = .stroke .dwell job env { ctx with remainingDwell := ctx.remainingDwell - 1 }) ∧
      (∀ h, engineState (s.head h).engine ≠ .dwell → (t.head h).engine = (s.head h).engine) ∧
      (∀ c, c ∈ t.pending ↔
        ∃ h, (c = .silenceTimerExpiry h ∧ (t.head h).link.silence = some 0) ∨
          (c = .markPulseEnd h ∧ (t.head h).lines.pulse = some 0) ∨
          (c = .dwellTimerExpiry h ∧
            ∃ job env ctx, (t.head h).engine = .stroke .dwell job env ctx ∧ ctx.remainingDwell = 0))

/-- The model's choice (log entries 5, 19 and 20): no command stops the part, and none touches the queue of waiting commands. -/
def Obligations.EveryCommandAnswersAndKeepsQueue : Prop :=
  ∀ (c : Instr) (s : State), ∃ t : State, exec c s = .next t ∧ t.pending = s.pending

/-! ## The ports -/

/-- A request that arrives on a port with a pending reply or an open transfer is discarded and sets the DISCARDED mark, unless it
is RESTART on the Cell Port, or END_TRANSFER there while a transfer is open. -/
def Obligations.BusyPortDiscardsRequests : Prop :=
  ∀ (i : Instr) (p : Port) (s : State), requestPort i = some p → ¬ portFree (s.port p) → i ≠ .restart .cell →
    (i = .endTransfer .cell → s.cell.transfer = none) → exec i s = .next (s.withMark p)

/-- The first three cases by which a free port judges a request frame and forms the reply itself. -/
def Obligations.PortJudgesFrames : Prop :=
  ∀ (i : Instr) (p : Port) (s : State), requestPort i = some p → portFree (s.port p) →
    (256 < frameLength i → exec i s = .next (s.withReply p 0x00 .frameError [])) ∧
    (frameLength i ≤ 256 → codeListed p (requestCode i) = false →
      exec i s = .next (s.withReply p (requestCode i) .unknown [])) ∧
    (frameLength i ≤ 256 → codeListed p (requestCode i) = true → lengthAgrees p i = false →
      exec i s = .next (s.withReply p (requestCode i) .frameError []))

/-- A transaction that the master ends before its frame's last byte, and a frame that arrives on a busy port, change nothing but
the DISCARDED mark; a frame that spells RESTART on the Cell Port, or END_TRANSFER there while a transfer is open, is taken
instead. A request, and the read of a reply, is a transaction of its own: before it a write left short in reception counts as a
discarded frame, and anything else there only ends. The model's choice: that only a frame that spells the whole request is so
taken (log entry 13), and that bytes are read as a command, and what ends a transaction in reception (log entry 7). -/
def Obligations.FramesOnBusyOrCutShortOnlyMark : Prop :=
  ∀ (p : Port) (bytes : List Byte) (s : State),
    (readTransaction (clockedBytes (s.port p) bytes) = .incomplete →
      exec (.incompleteFrame p bytes) s = .next (s.withMark p)) ∧
    (arrives (clockedBytes (s.port p) bytes) = true → ¬ portFree (s.port p) →
      (∀ code fields, readTransaction (clockedBytes (s.port p) bytes) = .frame code fields →
        parseRequest p code fields ≠ some (.restart .cell) ∧
          (parseRequest p code fields = some (.endTransfer .cell) → s.cell.transfer = none)) →
      exec (.discardedFrame p bytes) s = .next (s.withMark p)) ∧
    (∀ code fields i, readTransaction (clockedBytes (s.port p) bytes) = .frame code fields →
      parseRequest p code fields = some i → i = .restart .cell ∨ i = .endTransfer .cell ∧ s.cell.transfer ≠ none →
      exec (.discardedFrame p bytes) s = exec i (s.endReception p)) ∧
    (∀ got c, (s.port p).reception = some (.bytes got) → readTransaction got = .incomplete →
      requestPort c = some p ∨ c = .replyRead p → exec c s = exec c (s.withMark p)) ∧
    (∀ x c, (s.port p).reception = some x → (∀ got, x = .bytes got → readTransaction got ≠ .incomplete) →
      requestPort c = some p ∨ c = .replyRead p → exec c s = exec c (s.endReception p))

/-- A free port answers a frame of bytes: FRAME_ERROR with code 00 for a length field outside 4..256, UNKNOWN for a code it does
not list, FRAME_ERROR for a length that does not agree with its request. The model's choice (log entry 7): a frame that spells
a request runs as that request, and bytes short of a frame's last one stand in reception until more come. -/
def Obligations.UnknownFrameAnswered : Prop :=
  ∀ (p : Port) (bytes : List Byte) (s : State),
    (readTransaction (clockedBytes (s.port p) bytes) = .incomplete →
      exec (.unknown p bytes) s = .next (s.modPort p (fun u =>
        { u with reception := some (.bytes (clockedBytes u bytes)) }))) ∧
    (portFree (s.port p) → readTransaction (clockedBytes (s.port p) bytes) = .badLength →
      exec (.unknown p bytes) s = .next ((s.endReception p).withReply p 0x00 .frameError [])) ∧
    (∀ code fields, readTransaction (clockedBytes (s.port p) bytes) = .frame code fields →
      (portFree (s.port p) → codeListed p code = false →
        exec (.unknown p bytes) s = .next ((s.endReception p).withReply p code .unknown [])) ∧
      (portFree (s.port p) → codeListed p code = true → parseRequest p code fields = none →
        exec (.unknown p bytes) s = .next ((s.endReception p).withReply p code .frameError [])) ∧
      (∀ i, parseRequest p code fields = some i → exec (.unknown p bytes) s = exec i (s.endReception p)))

/-- Reading the pending reply: its bytes go out with the DISCARDED mark carried in, the mark is cleared, and the next block of a
transfer becomes the pending reply: as many entries as the block size or what is left of the count, read as they stand, or
for a READ_PINS that a record write has overtaken the RECORD_CHANGED block. With no pending reply the bytes 00, 00 go out. A
read short of the reply's last byte leaves the reply and the mark, and bytes beyond it read as 00 and read no second reply.
A write that stood in reception short of its frame's last byte has set the mark before (R175).
The model's choice: `wire` shows the bytes clocked out (log entry 8), the first-index byte of a READ_SITES block is that
of its own first entry (log entry 11), and a read transaction given as bytes reads the reply, ended by INCOMPLETE_FRAME and
left in reception by UNKNOWN (log entry 7). -/
def Obligations.ReplyReadDelivers : Prop :=
  ∀ (p : Port) (s : State),
    ((s.port p).reply = none →
      exec (.replyRead p) s = .next (s.modPort p (fun u =>
        { u with wire := [0x00, 0x00], discarded := u.discarded || leftShort u, reception := none }))) ∧
    (∀ r, (s.port p).reply = some r → r.more = false →
      exec (.replyRead p) s = .next (s.modPort p (fun u =>
        { u with
            wire :=
              u16 (5 + r.payload.length) ++ [r.code, BitVec.ofNat 8 (statusCode r.status)] ++
                [if u.discarded || leftShort u then 2 else 0] ++ r.payload,
            discarded := false, reply := none, transfer := none, reception := none }))) ∧
    (∀ r t, (s.port p).reply = some r → r.more = true → (s.port p).transfer = some t →
      ∃ (b : Reply) (next : Transfer),
        exec (.replyRead p) s = .next (s.modPort p (fun u =>
          { u with
              wire :=
                u16 (5 + r.payload.length) ++ [r.code, BitVec.ofNat 8 (statusCode r.status)] ++
                  [if u.discarded || leftShort u then 3 else 1] ++ r.payload,
              discarded := false, reply := some b, transfer := some next, reception := none })) ∧
        (∀ site first, t.kind = .pins site first → t.overtaken = true →
          next = { t with before := t.formed } ∧
          b =
            { code := 0x40, status := .recordChanged, more := false,
              payload := u8 site ++ u16 (first + t.formed) ++ u16 t.count ++ [0] }) ∧
        (t.overtaken = false → ∀ n, n = min s.blockSize (t.count - t.formed) →
          next = { t with before := t.formed, formed := t.formed + n } ∧ b.status = .ok ∧
          b.more = decide (t.formed + n < t.count) ∧
          (∀ site first, t.kind = .pins site first → b.code = 0x40 ∧
            b.payload = u8 site ++ u16 (first + t.formed) ++ u16 t.count ++ u8 n ++
              (List.range n).flatMap (fun k => pinEntryBytes s ((s.site site).firstPin + (first + t.formed + k)))) ∧
          (∀ first, t.kind = .sites first → b.code = 0x41 ∧
            b.payload = u8 (first + t.formed) ++ u8 t.count ++ u8 n ++
              (List.range n).flatMap (fun k => siteEntryBytes s (first + t.formed + k))) ∧
          (∀ slot w, t.kind = .trace slot → w = s.slot slot → b.code = 0x4A ∧
            b.payload = u8 slot ++ opt8 w.matchLane ++ opt8 (w.source.map (fun e => headCode e.head)) ++
              opt8 (w.source.map WatchSource.site) ++ opt8 (w.outcome.map outcomeCode) ++ u8 t.count ++ u8 t.formed ++
              u8 n ++ ((w.trace.drop t.formed).take n).flatMap traceBytes))) ∧
    (∀ bytes n out, readTransaction (clockedBytes (s.port p) bytes) = .read n →
      out =
        (match (s.port p).reply with
        | none => [0x00, 0x00]
        | some r => replyBytes r (s.port p).discarded) →
      (n < out.length →
        exec (.incompleteFrame p bytes) s =
            .next (s.modPort p (fun u => { u with wire := out.take n, reception := none })) ∧
          exec (.unknown p bytes) s = .next (s.modPort p (fun u =>
            { u with wire := out.take n, reception := some (.bytes (clockedBytes u bytes)) }))) ∧
      (out.length ≤ n →
        ∃ t : State, exec (.replyRead p) s = .next t ∧ ∀ c, c = .incompleteFrame p bytes ∨ c = .unknown p bytes →
          exec c s = .next (t.modPort p (fun u =>
            { u with wire := out ++ List.replicate (n - out.length) 0x00 }))))

/-- READ_SITES refuses a first index above 63, and otherwise delivers its count, clamped to what is left of the table, in
ceil(count / B) blocks of the Cell Port's block size B, every block but the last flagged MORE, each with its entries in
ascending order; reading the last ends the transfer. The model's choice (log entry 11): the first-index byte of a block is
the index of the block's own first entry. -/
def Obligations.SitesReadoutBlocks : Prop :=
  (∀ (s : State) (first count : Byte), portFree s.cell → 63 < first.toNat →
    exec (.readSites .cell first count) s = .next (s.withReply .cell 0x41 .range [])) ∧
  ∀ (s : State) (first count : Byte) (asked n : Nat), portFree s.cell → 0 < s.blockSize → first.toNat < 64 →
    asked = (if count.toNat = 0 then 64 else count.toNat) → n = min asked (64 - first.toNat) →
    ∃ t : State, exec (.readSites .cell first count) s = .next t ∧ t = { s with cell := t.cell } ∧
      (∀ k, k * s.blockSize < n → ∃ u, readCell k t = some u ∧ u = { s with cell := u.cell } ∧
        u.cell.reply =
          some
            { code := 0x41, status := if k = 0 ∧ n < asked then .okClamped else .ok,
              more := decide ((k + 1) * s.blockSize < n),
              payload :=
                u8 (first.toNat + k * s.blockSize) ++ u8 n ++ u8 (min s.blockSize (n - k * s.blockSize)) ++
                  (List.range (min s.blockSize (n - k * s.blockSize))).flatMap
                    (fun j => siteEntryBytes s (first.toNat + k * s.blockSize + j)) }) ∧
      ∃ u, readCell ((n + s.blockSize - 1) / s.blockSize) t = some u ∧ portFree u.cell

/-- READ_PINS and READ_TRACE open a transfer whose first block is the pending reply, or are refused; a refused request opens no
transfer. -/
def Obligations.PinsAndTraceTransfersOpen : Prop :=
  ∀ (s : State), portFree s.cell →
    (∀ (site count : Byte) (first : Half) (x : Site) (asked left n : Nat),
      x = s.site site.toNat → asked = (if count.toNat = 0 then 256 else count.toNat) →
      left = min (x.pinCount - first.toNat) (4096 - (x.firstPin + first.toNat)) → n = min asked left →
      if 63 < site.toNat ∨ x.pinCount ≤ first.toNat ∨ 4095 < x.firstPin + first.toNat then
        exec (.readPins .cell site first count) s = .next (s.withReply .cell 0x40 .range [])
      else
        exec (.readPins .cell site first count) s = .next
          { s with
              cell :=
                { s.cell with
                    discarded := s.cell.discarded || leftShort s.cell, reception := none,
                    transfer :=
                      some
                        { kind := .pins site.toNat first.toNat, count := n, formed := min s.blockSize n, before := 0,
                          overtaken := false },
                    reply :=
                      some
                        { code := 0x40, status := if left < asked then .okClamped else .ok,
                          more := decide (s.blockSize < n),
                          payload :=
                            [site] ++ le16 first ++ u16 n ++ u8 (min s.blockSize n) ++
                              (List.range (min s.blockSize n)).flatMap
                                (fun k => pinEntryBytes s (x.firstPin + (first.toNat + k))) } } }) ∧
    (∀ (slot : Byte) (w : WatchSlot), w = s.slot slot.toNat →
      if 1 < slot.toNat then exec (.readTrace .cell slot) s = .next (s.withReply .cell 0x4A .range [])
      else if w.state = .filling then exec (.readTrace .cell slot) s = .next (s.withReply .cell 0x4A .busy [])
      else if w.state ≠ .full then exec (.readTrace .cell slot) s = .next (s.withReply .cell 0x4A .refusedState [])
      else
        exec (.readTrace .cell slot) s = .next
          { s with
              cell :=
                { s.cell with
                    discarded := s.cell.discarded || leftShort s.cell, reception := none,
                    transfer :=
                      some
                        { kind := .trace slot.toNat, count := w.trace.length, formed := min s.blockSize w.trace.length,
                          before := 0, overtaken := false },
                    reply :=
                      some
                        { code := 0x4A, status := .ok, more := decide (s.blockSize < w.trace.length),
                          payload :=
                            [slot] ++ opt8 w.matchLane ++ opt8 (w.source.map (fun e => headCode e.head)) ++
                              opt8 (w.source.map WatchSource.site) ++ opt8 (w.outcome.map outcomeCode) ++
                              u8 w.trace.length ++ [0] ++ u8 (min s.blockSize w.trace.length) ++
                              (w.trace.take s.blockSize).flatMap traceBytes } } })

/-- SET_BLOCK stores 4, 8, 16 or 32 and refuses any other size; END_TRANSFER drops the pending block and removes the open
transfer, even on a port whose reply is pending, and is refused on a free port. The model's choice (log entry 10): the position
in its reply is that of the dropped block's first entry, as the request that opened the transfer counts. -/
def Obligations.TransferControls : Prop :=
  ∀ (s : State),
    (∀ (size : Byte), portFree s.cell →
      if size = 4 ∨ size = 8 ∨ size = 16 ∨ size = 32 then
        exec (.setBlock .cell size) s = .next ({ s with blockSize := size.toNat }.withReply .cell 0x06 .ok [size])
      else exec (.setBlock .cell size) s = .next (s.withReply .cell 0x06 .range [])) ∧
    (∀ t, s.cell.transfer = some t →
      exec (.endTransfer .cell) s = .next
        ({ s with cell := { s.cell with transfer := none } }.withReply .cell 0x07 .ok
          (u8 (match t.kind with
            | .pins _ _ => 0x40
            | .sites _ => 0x41
            | .trace _ => 0x4A) ++
            u16 (match t.kind with
              | .pins _ first => first + t.before
              | .sites first => first + t.before
              | .trace _ => t.before)))) ∧
    (portFree s.cell → exec (.endTransfer .cell) s = .next (s.withReply .cell 0x07 .refusedState []))

/-- IDENTIFY is answered on every port with the revision, the capacities, the map and bank state and the port. -/
def Obligations.IdentifyReports : Prop :=
  ∀ (p : Port) (s : State), portFree (s.port p) →
    exec (.identify p) s = .next
      (s.withReply p 0x01 .ok
        (([3, 64, 0x00, 0x10, 16, 8, 2, 128, 16, 2, if s.map.mode = .active then 1 else 0] : List Byte) ++ le16 s.map.generation ++
          le16 s.library.generation ++ u8 (if s.library.swapPending then 1 else 0) ++
          u8 (match p with
            | .cell => 0
            | .headA => 1
            | .headB => 2)))

/-- HEAD_STATUS reports the head's own state on its Head Port, the named head's on the Cell Port, and refuses a head field that
names neither; it changes nothing else. The model's choice (log entry 17): an absent field is the byte 255. -/
def Obligations.HeadStatusReports : Prop :=
  ∀ (s : State),
    (∀ (h : Head) (p : Port) (field : Option Byte) (u : HeadUnit), portFree (s.port p) → u = s.head h →
      (p = headPort h ∧ field = none ∨ p = .cell ∧ field = some (match h with | .a => 0 | .b => 1)) →
      exec (.headStatus p field) s = .next
        (s.withReply p 0x03 .ok
          (u8 (headCode h) ++ u8 (engineStateCode (engineState u.engine)) ++
            opt8 ((returnStateOf u.engine).map liveCode) ++ opt8 (u.claim.map Claim.site) ++
            opt8 (u.claim.map (fun c => kindCode c.kind)) ++ opt8 (u.waiting.map Wait.site) ++
            opt8 (u.waiting.map Wait.blocking) ++ u8 (stationIndexOf u.engine) ++
            u8 ((if permitLevel u then 1 else 0) + (if stopLevel u then 2 else 0) + (if markLevel u then 4 else 0) +
              (if interlockActive u then 8 else 0)) ++
            [if linkPresent u then 1 else 0] ++
            (match u.link.lastFrame with
              | none => [0, 0, 0, 0, 0, 0, 0, 0, 0]
              | some c =>
                [1] ++ i32 c.displacement ++ [if c.encoderFault then 1 else 0] ++ le16 c.saturation ++ u8 c.laneCount ++
                  c.raws.flatMap i16)))) ∧
    (∀ (field : Byte), portFree s.cell → 1 < field.toNat →
      exec (.headStatus .cell (some field)) s = .next (s.withReply .cell 0x03 .range []))

/-- READ_RECORD returns the site's whole Press Record on every port, 30 bytes and 9 for each lane, and refuses an index above
63. The model's choice (log entry 17): an absent fault lane, fault station or first excursion station is the byte 255. -/
def Obligations.ReadRecordReturns : Prop :=
  ∀ (p : Port) (s : State) (site : Byte), portFree (s.port p) →
    (63 < site.toNat → exec (.readRecord p site) s = .next (s.withReply p 0x04 .range [])) ∧
    (site.toNat ≤ 63 → ∃ payload, exec (.readRecord p site) s = .next (s.withReply p 0x04 .ok payload) ∧
      payload.length = 30 + 9 * (s.record site.toNat).lanes.length ∧
      payload.take 5 =
        [site] ++ opt8 ((s.record site.toNat).head.map headCode) ++ opt8 ((s.record site.toNat).kind.map kindCode) ++
          u8 (outcomeCode (s.record site.toNat).outcome) ++
          u8 ((if (s.record site.toNat).contact.isSome then 1 else 0) +
            (if (s.record site.toNat).seatedDepth.isSome then 2 else 0) +
            (if (s.record site.toNat).maxDepth.isSome then 4 else 0) +
            (if (s.record site.toNat).faultLane.isSome then 8 else 0) +
            (if (s.record site.toNat).faultStation.isSome then 16 else 0)) ∧
      (payload.drop 5).take 25 =
        le16 (s.record site.toNat).bankGeneration ++ le16 (s.record site.toNat).mapGeneration ++
          i32 ((s.record site.toNat).contact.getD 0) ++ i32 ((s.record site.toNat).seatedDepth.getD 0) ++
          u32 (s.record site.toNat).peakTotal ++ i32 ((s.record site.toNat).maxDepth.getD 0) ++
          u8 (s.record site.toNat).stations ++ u8 (s.record site.toNat).coarse ++
          u8 ((s.record site.toNat).faultLane.getD 255) ++ u8 ((s.record site.toNat).faultStation.getD 255) ++
          u8 (s.record site.toNat).lanes.length ∧
      ∀ k l, (s.record site.toNat).lanes[k]? = some l →
        (payload.drop (30 + 9 * k)).take 9 =
          u8 k ++ u8 ((if l.used then 1 else 0) + (if l.first.isSome then 2 else 0)) ++ u32 l.peak ++ u8 l.excursions ++
            u8 (l.first.getD 255) ++ u8 (laneVerdictCode l.verdict))

/-! ## Notices -/

/-- How a notice arrives at a queue that keeps its law, what FETCH_NOTICE takes from it, and that the law is kept. The model's
choice (log entry 17): an absent field of a notice is the byte 255, an absent station 0. -/
def Obligations.QueueTakesAndGives : Prop :=
  (∀ (q : NoticeQueue) (n : Notice) (us ns : List Notice), queueLaw q → us = q.items.filter urgent →
    ns = q.items.filter (fun m => !urgent m) →
    queueLaw (arrive q n) ∧ q.items = us ++ ns ∧
    (q.items.length < 16 → (arrive q n).overrun = q.overrun ∧
      (arrive q n).items = if urgent n then us ++ [n] ++ ns else q.items ++ [n]) ∧
    (q.items.length = 16 → (arrive q n).overrun = true ∧
      (arrive q n).items = if urgent n ∧ ns ≠ [] then us ++ [n] ++ ns.dropLast else q.items)) ∧
  (∀ (p : Port) (s : State), portFree (s.port p) →
    ((s.port p).queue.items = [] →
      exec (.fetchNotice p) s = .next
        ((s.modPort p (fun u => { u with queue := { items := [], overrun := false } })).withReply p 0x02 .empty
          [if (s.port p).queue.overrun then 1 else 0])) ∧
    (∀ n rest, (s.port p).queue.items = n :: rest →
      exec (.fetchNotice p) s = .next
        ((s.modPort p (fun u => { u with queue := { items := rest, overrun := false } })).withReply p 0x02 .ok
          ([if (s.port p).queue.overrun then 1 else 0] ++
            (u8 (noticeKindCode n.kind) ++ [if urgent n then 1 else 0] ++
              u8 ((if n.head.isSome then 1 else 0) + (if n.site.isSome then 2 else 0) +
                (if n.reason.isSome then 4 else 0) + (if n.station.isSome then 8 else 0) +
                (if n.lane.isSome then 16 else 0)) ++
              u8 ((n.head.map headCode).getD 255) ++ u8 (n.site.getD 255) ++ u8 (n.reason.getD 255) ++
              u16 (n.station.getD 0) ++ u8 (n.lane.getD 255))))))

/-! ## The Board Map -/

/-- WRITE_SITE: refused in MAP_ACTIVE and for a field out of range; else the site holds the eight fields, PENDING, its record and the
verdicts of its pins are emptied with every site they reach, and nothing else changes. The model's choice (log entry 15): a
site that is reached empties the sites that its own pins reach. -/
def Obligations.WriteSiteStores : Prop :=
  ∀ (s : State) (site : Byte) (f : SiteFields), portFree s.cell →
    (s.map.mode = .active → exec (.writeSite .cell site f) s = .next (s.withReply .cell 0x12 .mapState [])) ∧
    (s.map.mode = .edit →
      if 63 < site.toNat ∨ 7 < f.toolCode.toNat ∨ f.seatDepth.toNat < 100 ∨ 6000 < f.seatDepth.toNat ∨
          1000 < f.seatTolerance.toNat then
        exec (.writeSite .cell site f) s = .next (s.withReply .cell 0x12 .range [])
      else
        ∃ t : State, exec (.writeSite .cell site f) s = .next t ∧
          t = { s with map := { s.map with sites := t.map.sites }, records := t.records,
                       verdicts := t.verdicts }.withReply .cell 0x12 .ok [] ∧
          t.site site.toNat =
            { state := .pending, x := f.x.toNat, y := f.y.toNat, toolCode := f.toolCode.toNat,
              firstPin := f.firstPin.toNat, pinCount := f.pinCount.toNat, contactLimit := f.contactLimit.toInt,
              seatDepth := f.seatDepth.toNat, seatTolerance := f.seatTolerance.toNat, holder := none, prior := none } ∧
          (∀ i, i ≠ site.toNat → t.site i = s.site i) ∧
          Emptied t (f.firstPin.toNat, min f.pinCount.toNat (4096 - f.firstPin.toNat)) (some site.toNat) s t)

/-- CLEAR_SITE: refused in MAP_ACTIVE and for an index above 63; else the site is UNUSED with the values of an undefined site, its
record and the verdicts of its range are emptied with every site they reach, and nothing else changes. The model's choice (log
entry 15): a site that is reached empties the sites that its own pins reach. -/
def Obligations.ClearSiteUndefines : Prop :=
  ∀ (s : State) (site : Byte), portFree s.cell →
    (s.map.mode = .active → exec (.clearSite .cell site) s = .next (s.withReply .cell 0x13 .mapState [])) ∧
    (s.map.mode = .edit →
      if 63 < site.toNat then exec (.clearSite .cell site) s = .next (s.withReply .cell 0x13 .range [])
      else
        ∃ t : State, exec (.clearSite .cell site) s = .next t ∧
          t = { s with map := { s.map with sites := t.map.sites }, records := t.records,
                       verdicts := t.verdicts }.withReply .cell 0x13 .ok [] ∧
          t.site site.toNat =
            { state := .unused, x := 0, y := 0, toolCode := 0, firstPin := 0, pinCount := 0, contactLimit := 0,
              seatDepth := 100, seatTolerance := 0, holder := none, prior := none } ∧
          (∀ i, i ≠ site.toNat → t.site i = s.site i) ∧
          Emptied s (pinSpan (s.site site.toNat)) (some site.toNat) s t)

/-- WRITE_PINS: refused in MAP_ACTIVE, and whole for a count, a run of indices or an entry out of range; else the entries stand in
order from the first index, the written pins and every site they reach are emptied, and nothing else changes. The model's
choice (log entry 15): a site that is reached empties the sites that its own pins reach. -/
def Obligations.WritePinsStores : Prop :=
  ∀ (s : State) (first : Half) (count : Byte) (entries : List PinEntry), portFree s.cell →
    entries.length = count.toNat → entries.length ≤ 31 →
    (s.map.mode = .active → exec (.writePins .cell first count entries) s = .next (s.withReply .cell 0x14 .mapState [])) ∧
    (s.map.mode = .edit →
      (count.toNat = 0 ∨ 16 < count.toNat ∨ 4095 < first.toNat + count.toNat - 1 ∨
        (∃ e ∈ entries, 15 < e.lane.toNat ∨ 3 < e.pinType.toNat ∨ 7 < e.holeClass.toNat ∨ 2000 < e.entryOffset.toNat) →
        exec (.writePins .cell first count entries) s = .next (s.withReply .cell 0x14 .range [])) ∧
      (1 ≤ count.toNat → count.toNat ≤ 16 → first.toNat + count.toNat - 1 ≤ 4095 →
        (∀ e ∈ entries, e.lane.toNat ≤ 15 ∧ e.pinType.toNat ≤ 3 ∧ e.holeClass.toNat ≤ 7 ∧ e.entryOffset.toNat ≤ 2000) →
        ∃ t : State, exec (.writePins .cell first count entries) s = .next t ∧
          t = { s with map := { s.map with pins := t.map.pins }, records := t.records,
                       verdicts := t.verdicts }.withReply .cell 0x14 .ok [] ∧
          (∀ k e, entries[k]? = some e → t.pin (first.toNat + k) =
            { live := decide (e.live ≠ (0 : Byte)), lane := e.lane.toNat, pinType := e.pinType.toNat,
              holeClass := e.holeClass.toNat, entryOffset := e.entryOffset.toNat, row := e.row.toNat,
              column := e.column.toNat }) ∧
          (∀ k, ¬ inSpan (first.toNat, entries.length) k → t.pin k = s.pin k) ∧
          Emptied s (first.toNat, entries.length) none s t))

/-- SET_KEEPOUT: refused in MAP_ACTIVE; stores the distance, and stores 20000 for a greater one, with the applied value in the
reply. -/
def Obligations.KeepoutStored : Prop :=
  ∀ (s : State) (distance : Half), portFree s.cell →
    exec (.setKeepout .cell distance) s = .next
      (if s.map.mode = .active then s.withReply .cell 0x15 .mapState []
       else if distance.toNat ≤ 20000 then
         { s with map := { s.map with keepOut := distance.toNat } }.withReply .cell 0x15 .ok []
       else { s with map := { s.map with keepOut := 20000 } }.withReply .cell 0x15 .okClamped [0x20, 0x4E])

/-- MAP_ACTIVATE: refused in MAP_ACTIVE, then for a FORCE_ON override, then INVALID_MAP naming the first defined site that fails a
check, the check and the overlapping site; else the map is active under a generation one higher, and nothing else changes. The
model's choice: 255 stands for no overlapping site (log entry 9), and the widths of the OK payload (log entry 12). -/
def Obligations.ActivationJudged : Prop :=
  ∀ (s : State), portFree s.cell →
    (s.map.mode = .active → exec (.mapActivate .cell) s = .next (s.withReply .cell 0x11 .mapState [])) ∧
    (s.map.mode = .edit → (s.headA.lines.override = .forceOn ∨ s.headB.lines.override = .forceOn) →
      exec (.mapActivate .cell) s = .next (s.withReply .cell 0x11 .lineForced [])) ∧
    (s.map.mode = .edit → s.headA.lines.override ≠ .forceOn → s.headB.lines.override ≠ .forceOn →
      (∀ i check other, definedAt s i → (∀ j, j < i → definedAt s j → SitePasses s j) → SiteFails s i check other →
        exec (.mapActivate .cell) s = .next
          (s.withReply .cell 0x11 .invalidMap (u8 i ++ u8 (mapCheckCode check) ++ u8 (other.getD 255)))) ∧
      ((∀ i, definedAt s i → SitePasses s i) →
        exec (.mapActivate .cell) s = .next
          ({ s with map := { s.map with mode := .active, generation := s.map.generation + 1 } }.withReply .cell 0x11 .ok
            (le16 (s.map.generation + 1) ++
              u8 ((List.range 64).countP (fun i => decide ((s.site i).state ≠ SiteState.unused)))))))

/-- MAP_EDIT: OK without a change in MAP_EDIT; in MAP_ACTIVE it is taken while no site is held, no claim waits and both engines are
IDLE, and refused MAP_IN_USE otherwise. -/
def Obligations.MapEditReturns : Prop :=
  ∀ (s : State), portFree s.cell →
    (s.map.mode = .edit → exec (.mapEdit .cell) s = .next (s.withReply .cell 0x10 .ok [])) ∧
    (s.map.mode = .active →
      ((∀ i, i < 64 → (s.site i).state ≠ .claimed ∧ (s.site i).state ≠ .pressing) ∧ s.headA.waiting = none ∧
          s.headB.waiting = none ∧ s.headA.engine = .idle ∧ s.headB.engine = .idle →
        exec (.mapEdit .cell) s = .next
          ({ s with map := { s.map with mode := .edit } }.withReply .cell 0x10 .ok [])) ∧
      ((∃ i, i < 64 ∧ ((s.site i).state = .claimed ∨ (s.site i).state = .pressing)) ∨ s.headA.waiting ≠ none ∨
          s.headB.waiting ≠ none ∨ s.headA.engine ≠ .idle ∨ s.headB.engine ≠ .idle →
        exec (.mapEdit .cell) s = .next (s.withReply .cell 0x10 .mapInUse [])))

/-- LOCK_SITES sets the flags of the run in ascending order up to the first held site, where it stops; the reply gives the next
index and the remaining count, reckoned from the clamped count. UNLOCK_SITES clears every flag of the run, held sites
included. -/
def Obligations.LockFlagRuns : Prop :=
  ∀ (s : State) (first count : Byte) (n : Nat), portFree s.cell → n = min count.toNat (64 - first.toNat) →
    (63 < first.toNat ∨ count.toNat = 0 →
      exec (.lockSites .cell first count) s = .next (s.withReply .cell 0x16 .range []) ∧
        exec (.unlockSites .cell first count) s = .next (s.withReply .cell 0x17 .range [])) ∧
    (first.toNat ≤ 63 → count.toNat ≠ 0 → ∀ m ≤ n,
      (∀ j, j < m →
        (s.site (first.toNat + j)).state ≠ .claimed ∧ (s.site (first.toNat + j)).state ≠ .pressing) →
      (m < n → (s.site (first.toNat + m)).state = .claimed ∨ (s.site (first.toNat + m)).state = .pressing) →
      ∃ t : State, exec (.lockSites .cell first count) s = .next t ∧
        t = { s with map := { s.map with locks := t.map.locks } }.withReply .cell 0x16
          (if m < n then .refusedState else if n < count.toNat then .okClamped else .ok)
          (if m < n then u8 (first.toNat + m) ++ u8 (n - m) else [64, 0]) ∧
        ∀ i, t.locked i = true ↔ s.locked i = true ∨ inSpan (first.toNat, m) i) ∧
    (first.toNat ≤ 63 → count.toNat ≠ 0 →
      ∃ t : State, exec (.unlockSites .cell first count) s = .next t ∧
        t = { s with map := { s.map with locks := t.map.locks } }.withReply .cell 0x17
          (if n < count.toNat then .okClamped else .ok) [64, 0] ∧
        ∀ i, t.locked i = true ↔ s.locked i = true ∧ ¬ inSpan (first.toNat, n) i)

/-- DISPOSE_SITE returns a REJECTED or PARTIAL site to PENDING and changes nothing else, and refuses every other. -/
def Obligations.DisposeReturnsPending : Prop :=
  ∀ (s : State) (site : Byte), portFree s.cell →
    (63 < site.toNat → exec (.disposeSite .cell site) s = .next (s.withReply .cell 0x18 .range [])) ∧
    (site.toNat ≤ 63 → (s.site site.toNat).state ≠ .rejected → (s.site site.toNat).state ≠ .partialIn →
      exec (.disposeSite .cell site) s = .next (s.withReply .cell 0x18 .refusedState [])) ∧
    (site.toNat ≤ 63 → (s.site site.toNat).state = .rejected ∨ (s.site site.toNat).state = .partialIn →
      ∃ t : State, exec (.disposeSite .cell site) s = .next t ∧
        t = { s with map := { s.map with sites := t.map.sites } }.withReply .cell 0x18 .ok [] ∧
        t.site site.toNat = { s.site site.toNat with state := .pending } ∧
        ∀ i, i ≠ site.toNat → t.site i = s.site i)

/-! ## The Profile Library -/

/-- WRITE_PROFILE: refused while a swap is pending, then for its place, then for the first check its record fails, with the
fault and the breakpoint index; else the shadow profile at the place is the record carried, and nothing else changes. The
model's choice (log entry 9): 255 stands for no breakpoint index in the refusals [0, 255], [1, 255] and [6, 255]. -/
def Obligations.WriteProfileJudged : Prop :=
  ∀ (s : State) (pinType holeClass count : Byte) (seatForce : Half) (entries : List PointEntry)
    (points : List Breakpoint) (i : Instr), portFree s.cell → entries.length = count.toNat → entries.length ≤ 41 →
    points = entries.map (fun e => { depth := e.depth.toNat, lower := e.lower.toNat, upper := e.upper.toNat }) →
    i = .writeProfile .cell pinType holeClass count seatForce entries →
    (s.library.swapPending = true → exec i s = .next (s.withReply .cell 0x20 .swapBusy [])) ∧
    (s.library.swapPending = false → 3 < pinType.toNat ∨ 7 < holeClass.toNat →
      exec i s = .next (s.withReply .cell 0x20 .range [0, 255])) ∧
    (s.library.swapPending = false → pinType.toNat ≤ 3 → holeClass.toNat ≤ 7 →
      (count.toNat < 2 ∨ 8 < count.toNat → exec i s = .next (s.withReply .cell 0x20 .range [1, 255])) ∧
      (2 ≤ count.toNat → count.toNat ≤ 8 →
        (∀ k fault, entryFault points k = some fault → (∀ m, m < k → entryFault points m = none) →
          exec i s = .next (s.withReply .cell 0x20 .range (u8 (profileFaultCode fault) ++ u8 k))) ∧
        ((∀ k, entryFault points k = none) → seatForce.toNat < 1 ∨ 20000 < seatForce.toNat →
          exec i s = .next (s.withReply .cell 0x20 .range [6, 255])) ∧
        ((∀ k, entryFault points k = none) → 1 ≤ seatForce.toNat → seatForce.toNat ≤ 20000 →
          ∃ t : State, exec i s = .next t ∧
            t = { s with library := t.library }.withReply .cell 0x20 .ok [pinType, holeClass, count] ∧
            t.library = { s.library with bank0 := t.library.bank0, bank1 := t.library.bank1 } ∧
            ∀ b place, profileAt t.library b place =
              if b ≠ s.library.active ∧ place = pinType.toNat * 8 + holeClass.toNat then
                some { points := points, seatForce := seatForce.toNat }
              else profileAt s.library b place)))

/-- CLEAR_PROFILE makes a shadow profile absent, COPY_BANK makes every shadow profile that of the active bank, both refused while a
swap is pending; READ_PROFILE reads a bank by its role. The model's choice: the refusals of a place carry the byte 0 alone (log
entry 9), and COPY_BANK's count is one byte (log entry 12). -/
def Obligations.ShadowClearedCopiedRead : Prop :=
  ∀ (s : State), portFree s.cell →
    (∀ (pinType holeClass : Byte),
      (s.library.swapPending = true →
        exec (.clearProfile .cell pinType holeClass) s = .next (s.withReply .cell 0x21 .swapBusy [])) ∧
      (s.library.swapPending = false → 3 < pinType.toNat ∨ 7 < holeClass.toNat →
        exec (.clearProfile .cell pinType holeClass) s = .next (s.withReply .cell 0x21 .range [0])) ∧
      (s.library.swapPending = false → pinType.toNat ≤ 3 → holeClass.toNat ≤ 7 →
        ∃ t : State, exec (.clearProfile .cell pinType holeClass) s = .next t ∧
          t = { s with library := t.library }.withReply .cell 0x21 .ok [pinType, holeClass] ∧
          t.library = { s.library with bank0 := t.library.bank0, bank1 := t.library.bank1 } ∧
          ∀ b place, profileAt t.library b place =
            if b ≠ s.library.active ∧ place = pinType.toNat * 8 + holeClass.toNat then none
            else profileAt s.library b place)) ∧
    (s.library.swapPending = true → exec (.copyBank .cell) s = .next (s.withReply .cell 0x22 .swapBusy [])) ∧
    (s.library.swapPending = false →
      ∃ t : State, exec (.copyBank .cell) s = .next t ∧
        t = { s with library := t.library }.withReply .cell 0x22 .ok
          (u8 ((List.range 32).countP (fun k => (profileAt t.library (otherBank s.library.active) k).isSome))) ∧
        t.library = { s.library with bank0 := t.library.bank0, bank1 := t.library.bank1 } ∧
        ∀ b place, profileAt t.library b place = profileAt s.library s.library.active place) ∧
    (∀ (role pinType holeClass : Byte),
      (1 < role.toNat ∨ 3 < pinType.toNat ∨ 7 < holeClass.toNat →
        exec (.readProfile .cell role pinType holeClass) s = .next (s.withReply .cell 0x23 .range [0])) ∧
      (role.toNat ≤ 1 → pinType.toNat ≤ 3 → holeClass.toNat ≤ 7 → ∀ b, (b = s.library.active ↔ role = 0) →
        exec (.readProfile .cell role pinType holeClass) s = .next
          (s.withReply .cell 0x23 .ok
            ([role] ++ le16 s.library.generation ++ [pinType, holeClass] ++
              (match profileAt s.library b (pinType.toNat * 8 + holeClass.toNat) with
                | none => [0, 0, 0, 0]
                | some q =>
                  [1] ++ u8 q.points.length ++ u16 q.seatForce ++
                    q.points.flatMap (fun e => u16 e.depth ++ u16 e.lower ++ u16 e.upper))))))

/-- SWAP_BANKS: the swap takes place at once when both engines are IDLE, waits otherwise, and changes nothing while one is
pending; and no command changes the active bank but in an event after which both engines are IDLE and no swap is pending. The
model's choice (log entry 12): the bytes of the reply, its pending flag and the generation. -/
def Obligations.SwapWaitsForBothEngines : Prop :=
  (∀ (s : State), portFree s.cell →
    (s.library.swapPending = true →
      exec (.swapBanks .cell) s = .next (s.withReply .cell 0x24 .pending ([1] ++ le16 s.library.generation))) ∧
    (s.library.swapPending = false → ¬ (s.headA.engine = .idle ∧ s.headB.engine = .idle) →
      exec (.swapBanks .cell) s = .next
        ({ s with library := { s.library with swapPending := true } }.withReply .cell 0x24 .pending
          ([1] ++ le16 s.library.generation))) ∧
    (s.library.swapPending = false → s.headA.engine = .idle → s.headB.engine = .idle →
      ∀ n : Notice,
        n = { kind := .swapDone, head := none, site := none, reason := none,
              station := some (s.library.generation + 1).toNat, lane := none } →
        exec (.swapBanks .cell) s = .next
          ({ s with
              library :=
                { s.library with active := otherBank s.library.active, generation := s.library.generation + 1 },
              cell := { s.cell with queue := arrive s.cell.queue n },
              portA := { s.portA with queue := arrive s.portA.queue n },
              portB := { s.portB with queue := arrive s.portB.queue n } }.withReply .cell 0x24 .pending
            ([0] ++ le16 (s.library.generation + 1))))) ∧
  (∀ (c : Instr) (s t : State), exec c s = .next t → t.library.active ≠ s.library.active →
    t.headA.engine = .idle ∧ t.headB.engine = .idle ∧ t.library.swapPending = false)

/-! ## Tools, settings and lines -/

/-- SET_TOOL: judged in its order; a tool that is taken replaces the head's description, every gain and lane ceiling clamped, and
nothing else changes. -/
def Obligations.ToolStored : Prop :=
  ∀ (s : State) (h : Head) (laneCount toolCode : Byte) (entries : List LaneEntry) (lanes : List LaneSetup),
    portFree s.cell → entries.length = laneCount.toNat → entries.length ≤ 31 →
    lanes = entries.map (fun e =>
      { gain := max 1 (min 65535 e.gain.toNat), ceiling := max 1 (min 16777215 e.ceiling.toNat) }) →
    (∀ (b : Byte), 1 < b.toNat →
      exec (.setTool .cell b laneCount toolCode entries) s = .next (s.withReply .cell 0x28 .range [])) ∧
    ((s.head h).engine ≠ .idle ∨ (s.head h).claim ≠ none ∨ (s.head h).waiting ≠ none →
      exec (.setTool .cell (headByte h) laneCount toolCode entries) s =
        .next (s.withReply .cell 0x28 .refusedState [])) ∧
    ((s.head h).engine = .idle → (s.head h).claim = none → (s.head h).waiting = none →
      if 16 < laneCount.toNat ∨ 7 < toolCode.toNat then
        exec (.setTool .cell (headByte h) laneCount toolCode entries) s = .next (s.withReply .cell 0x28 .range [])
      else
        exec (.setTool .cell (headByte h) laneCount toolCode entries) s = .next
          ((s.modHead h (fun u =>
            { u with
                tool := { laneCount := laneCount.toNat, toolCode := toolCode.toNat, lanes := lanes } })).withReply .cell
            0x28
            (if (∀ e ∈ entries, (1 ≤ e.gain.toNat ∧ e.gain.toNat ≤ 65535) ∧
                (1 ≤ e.ceiling.toNat ∧ e.ceiling.toNat ≤ 16777215)) then .ok else .okClamped)
            ([headByte h, laneCount, toolCode] ++ lanes.flatMap (fun l => u32 l.gain ++ u32 l.ceiling))))

/-- SET_HEAD of the ten numeric settings stores the value clamped to the setting's range, and of FAIL_ACTION one of its two values;
a head or an identifier it does not know is refused; no other setting and nothing else changes. -/
def Obligations.SettingStored : Prop :=
  ∀ (s : State), portFree s.cell →
    (∀ (b g : Byte) (v : Word), 1 < b.toNat ∨ 12 < g.toNat →
      exec (.setHead .cell b g v) s = .next (s.withReply .cell 0x29 .range [])) ∧
    (∀ (h : Head) (v : Word) (id lo hi : Nat) (get : Settings → Nat), (id, lo, hi, get) ∈ numericSettings →
      ∃ x : Settings,
        exec (.setHead .cell (headByte h) (BitVec.ofNat 8 id) v) s = .next
          ((s.modHead h (fun u => { u with settings := x })).withReply .cell 0x29
            (if lo ≤ v.toNat ∧ v.toNat ≤ hi then .ok else .okClamped)
            ([headByte h, BitVec.ofNat 8 id] ++ u32 (max lo (min hi v.toNat)))) ∧
        get x = max lo (min hi v.toNat) ∧
        (∀ id' lo' hi' get', (id', lo', hi', get') ∈ numericSettings → id' ≠ id →
          get' x = get' (s.head h).settings) ∧
        x.judged.failAction = (s.head h).settings.judged.failAction ∧
        x.interlockAction = (s.head h).settings.interlockAction ∧
        x.interlockPolarity = (s.head h).settings.interlockPolarity) ∧
    (∀ (h : Head) (v : Word),
      if v.toNat ≤ 1 then
        exec (.setHead .cell (headByte h) 3 v) s = .next
          ((s.modHead h (fun u =>
            { u with
                settings :=
                  { u.settings with
                      judged :=
                        { u.settings.judged with failAction := if v.toNat = 0 then .continue else .stop } } })).withReply
            .cell 0x29 .ok ([headByte h, 3] ++ le32 v))
      else exec (.setHead .cell (headByte h) 3 v) s = .next (s.withReply .cell 0x29 .range []))

/-- SET_HEAD of INTERLOCK_ACTION and INTERLOCK_POLARITY acts in its event: a new action meets an engine in HELD, and a new
polarity that changes the reading acts as the input would. -/
def Obligations.InterlockSettingsAct : Prop :=
  ∀ (s : State) (h : Head) (v : Word), portFree s.cell →
    (2 < v.toNat → exec (.setHead .cell (headByte h) 11 v) s = .next (s.withReply .cell 0x29 .range [])) ∧
    (1 < v.toNat → exec (.setHead .cell (headByte h) 12 v) s = .next (s.withReply .cell 0x29 .range [])) ∧
    (∀ (a : InterlockAction) (u : State),
      (v = 0 ∧ a = .holdLevel ∨ v = 1 ∧ a = .holdLatch ∨ v = 2 ∧ a = .abort) →
      u = s.modHead h (fun w => { w with settings := { w.settings with interlockAction := a } }) →
      (engineState (s.head h).engine ≠ .held ∨ a = (s.head h).settings.interlockAction ∨ a = .holdLatch ∨
          a = .holdLevel ∧ interlockActive (s.head h) = true ∨ a = .abort ∧ interlockActive (s.head h) = false →
        exec (.setHead .cell (headByte h) 11 v) s =
          .next (u.withReply .cell 0x29 .ok ([headByte h, 11] ++ le32 v))) ∧
      (∀ ret job env ctx, (s.head h).engine = .stroke (.held ret) job env ctx →
        a ≠ (s.head h).settings.interlockAction →
        (a = .holdLevel → interlockActive (s.head h) = false →
          exec (.setHead .cell (headByte h) 11 v) s = .next
            (((u.modHead h (fun w => { w with engine := .stroke (livePhase ret) job env ctx })).postHead h
              { kind := .interlockResumed, head := some h, site := some job.site, reason := some (liveCode ret),
                station := none, lane := none }).withReply .cell 0x29 .ok ([headByte h, 11] ++ le32 v))) ∧
        (a = .abort → interlockActive (s.head h) = true →
          ∃ t : State, exec (.setHead .cell (headByte h) 11 v) s =
              .next (t.withReply .cell 0x29 .ok ([headByte h, 11] ++ le32 v)) ∧
            Concludes u h job env ctx .aborted
              [{ kind := .interlockHold, head := some h, site := some job.site, reason := some 1,
                 station := some ctx.stationIndex, lane := none }] t))) ∧
    (∀ (p : Polarity) (u : State), (v = 0 ∧ p = .activeHigh ∨ v = 1 ∧ p = .activeLow) →
      u = s.modHead h (fun w => { w with settings := { w.settings with interlockPolarity := p } }) →
      (p = (s.head h).settings.interlockPolarity →
        exec (.setHead .cell (headByte h) 12 v) s =
          .next (s.withReply .cell 0x29 .ok ([headByte h, 12] ++ le32 v))) ∧
      (p ≠ (s.head h).settings.interlockPolarity →
        ∃ t : State, exec (.interlockChange h (s.head h).lines.interlockHigh)
              (u.modHead h (fun w =>
                { w with lines := { w.lines with interlockHigh := !(s.head h).lines.interlockHigh } })) = .next t ∧
          exec (.setHead .cell (headByte h) 12 v) s =
            .next (t.withReply .cell 0x29 .ok ([headByte h, 12] ++ le32 v))))

/-- KEEP_SETTINGS sets the flag to on or off, and refuses a value that is neither. -/
def Obligations.KeepFlagStored : Prop :=
  ∀ (s : State) (value : Byte), portFree s.cell →
    exec (.keepSettings .cell value) s = .next
      (if value = 1 then { s with keep := true }.withReply .cell 0x2A .ok [1]
       else if value = 0 then { s with keep := false }.withReply .cell 0x2A .ok [0]
       else s.withReply .cell 0x2A .range [])

/-- SET_LINE: judged in its order; a value that is taken is stored, and the reply carries the PERMIT level that results. The
model's choice (log entry 12): the bytes of the OK payload. -/
def Obligations.LineSet : Prop :=
  ∀ (s : State) (b line value : Byte), portFree s.cell →
    (1 < b.toNat ∨ 1 < line.toNat ∨ line = 0 ∧ 2 < value.toNat ∨ line = 1 ∧ 4 < value.toNat →
      exec (.setLine .cell b line value) s = .next (s.withReply .cell 0x2B .range [])) ∧
    (∀ (h : Head),
      (s.map.mode = .active →
        exec (.setLine .cell (headByte h) 0 2) s = .next (s.withReply .cell 0x2B .lineForced [])) ∧
      (s.map.mode = .edit → (s.head h).lines.stop = true →
        exec (.setLine .cell (headByte h) 0 2) s = .next (s.withReply .cell 0x2B .stopped [])) ∧
      (s.map.mode = .edit → (s.head h).lines.stop = false →
        exec (.setLine .cell (headByte h) 0 2) s = .next
          ((s.modHead h (fun u => { u with lines := { u.lines with override := .forceOn } })).withReply .cell 0x2B .ok
            [headByte h, 0, 2, 1])) ∧
      exec (.setLine .cell (headByte h) 0 1) s = .next
        ((s.modHead h (fun u => { u with lines := { u.lines with override := .forceOff } })).withReply .cell 0x2B .ok
          [headByte h, 0, 1, 0]) ∧
      exec (.setLine .cell (headByte h) 0 0) s = .next
        ((s.modHead h (fun u => { u with lines := { u.lines with override := .engine } })).withReply .cell 0x2B .ok
          [headByte h, 0, 0,
           if (s.head h).lines.stop = false ∧ (engineState (s.head h).engine = .approach ∨
             engineState (s.head h).engine = .engage) then 1 else 0]) ∧
      (∀ m : MarkSource,
        (value = 0 ∧ m = .off ∨ value = 1 ∧ m = .contact ∨ value = 2 ∧ m = .station ∨ value = 3 ∧ m = .excursion ∨
          value = 4 ∧ m = .seated) →
        exec (.setLine .cell (headByte h) 1 value) s = .next
          ((s.modHead h (fun u => { u with lines := { u.lines with markSource := m } })).withReply .cell 0x2B .ok
            [headByte h, 1, value, if permitLevel (s.head h) then 1 else 0])))

/-! ## Claims -/

/-- A CLAIM whose nine checks pass is granted: the claim record and the site alone change. -/
def Obligations.ClaimGranted : Prop :=
  ∀ (s : State) (h : Head) (site kind wait : Byte) (k : Kind), portFree (s.port (headPort h)) →
    (kind = 0 ∧ k = .press ∨ kind = 1 ∧ k = .verify) →
    firstRefusal (claimChecks s h ((s.head h).claim.isSome || (s.head h).waiting.isSome) site.toNat kind.toNat
      wait.toNat) = none →
    (∀ j, ¬ Blocks s h site.toNat j) →
    ∃ t : State, exec (.claim (headPort h) site kind wait) s = .next t ∧
      t = ({ s with map := { s.map with sites := t.map.sites } }.modHead h (fun u =>
        { u with claim := some { site := site.toNat, kind := k } })).withReply (headPort h) 0x30 .ok [site, kind] ∧
      SiteGranted s h site.toNat k t

/-- A CLAIM that fails one of checks 1 to 8 is answered by the first that fails and changes nothing; one that fails check 9 is
refused CONFLICT, or waits. -/
def Obligations.ClaimRefusedInOrder : Prop :=
  ∀ (s : State) (h : Head) (site kind wait : Byte) (checks : List (Bool × Status)), portFree (s.port (headPort h)) →
    checks = claimChecks s h ((s.head h).claim.isSome || (s.head h).waiting.isSome) site.toNat kind.toNat wait.toNat →
    (∀ st, firstRefusal checks = some st →
      exec (.claim (headPort h) site kind wait) s = .next (s.withReply (headPort h) 0x30 st [site])) ∧
    (∀ j, firstRefusal checks = none → Blocks s h site.toNat j →
      (wait = 0 →
        exec (.claim (headPort h) site kind wait) s = .next (s.withReply (headPort h) 0x30 .conflict ([site] ++ u8 j))) ∧
      (wait = 1 →
        exec (.claim (headPort h) site kind wait) s = .next
          ((s.modHead h (fun u =>
            { u with
                waiting :=
                  some
                    { site := site.toNat, kind := if kind = 0 then .press else .verify, blocking := j,
                      due := false } })).withReply (headPort h) 0x30 .waiting ([site] ++ u8 j))))

/-- The re-evaluation of a due waiting claim grants it, refuses it with the first failing check as the reason, or leaves it waiting
for the site that now blocks it. The model's choice (log entry 6): the command leaves a claim that is not due alone. -/
def Obligations.ReevaluationOutcomes : Prop :=
  ∀ (s : State) (h : Head),
    ((s.head h).waiting = none ∨ (∃ w, (s.head h).waiting = some w ∧ w.due = false) →
      exec (.reevaluation h) s = .next s) ∧
    (∀ w checks, (s.head h).waiting = some w → w.due = true →
      checks = claimChecks s h (s.head h).claim.isSome w.site (match w.kind with | .press => 0 | .verify => 1) 1 →
      (∀ st, firstRefusal checks = some st →
        exec (.reevaluation h) s = .next
          ((s.modHead h (fun u => { u with waiting := none })).postHead h
            { kind := .claimRefused, head := some h, site := some w.site, reason := some (statusCode st),
              station := none, lane := none })) ∧
      (∀ j, firstRefusal checks = none → Blocks s h w.site j →
        exec (.reevaluation h) s = .next
          (s.modHead h (fun u => { u with waiting := some { w with blocking := j, due := false } }))) ∧
      (firstRefusal checks = none → (∀ j, ¬ Blocks s h w.site j) →
        ∃ t : State, exec (.reevaluation h) s = .next t ∧
          t = ({ s with map := { s.map with sites := t.map.sites } }.modHead h (fun u =>
            { u with waiting := none, claim := some { site := w.site, kind := w.kind } })).postHead h
              { kind := .claimGranted, head := some h, site := some w.site, reason := none, station := none,
                lane := none } ∧
          SiteGranted s h w.site w.kind t))

/-- RELEASE gives up the claim of an engine in IDLE or ARMED, the site returning to its prior state and the other head's wait
becoming due, and is refused in every other state; CANCEL_WAIT removes the waiting claim. -/
def Obligations.ClaimGivenUp : Prop :=
  ∀ (s : State) (h : Head), portFree (s.port (headPort h)) →
    ((s.head h).claim = none →
      exec (.release (headPort h)) s = .next (s.withReply (headPort h) 0x31 .noClaim [])) ∧
    (∀ c, (s.head h).claim = some c →
      (engineState (s.head h).engine = .composing →
        exec (.release (headPort h)) s = .next (s.withReply (headPort h) 0x31 .busy [])) ∧
      (strokeRuns (s.head h).engine = true →
        exec (.release (headPort h)) s = .next (s.withReply (headPort h) 0x31 .refusedState [])) ∧
      (∀ st, ((s.site c.site).prior = some .pending ∧ st = .pending ∨ (s.site c.site).prior = some .seated ∧
          st = .seated) →
        ((s.head h).engine = .idle →
          ∃ t : State, exec (.release (headPort h)) s = .next (t.withReply (headPort h) 0x31 .ok (u8 c.site)) ∧
            t = { s with map := { s.map with sites := t.map.sites }, headA := t.headA, headB := t.headB } ∧
            t.head h = { s.head h with claim := none } ∧
            t.head (otherHead h) =
              { s.head (otherHead h) with waiting := waitAfter true (s.head (otherHead h)).waiting } ∧
            ∀ i, t.site i = (SiteFate.released c.site st).site s i) ∧
        (engineState (s.head h).engine = .armed →
          ∃ t : State, exec (.release (headPort h)) s = .next (t.withReply (headPort h) 0x31 .ok (u8 c.site)) ∧
            EndsIdle s h (.released c.site st) [] t ∧ storeKept s t))) ∧
    ((s.head h).waiting = none →
      exec (.cancelWait (headPort h)) s = .next (s.withReply (headPort h) 0x32 .notWaiting [])) ∧
    (∀ w, (s.head h).waiting = some w →
      exec (.cancelWait (headPort h)) s = .next
        ((s.modHead h (fun u => { u with waiting := none })).withReply (headPort h) 0x32 .ok (u8 w.site)))

/-! ## ARM and the composition -/

/-- ARM: judged in its order; accepted, the engine is COMPOSING for the site and the kind of the claim, with the settings and the
bank generation as they stand, and nothing else changes. -/
def Obligations.ArmAccepted : Prop :=
  ∀ (s : State) (h : Head), portFree (s.port (headPort h)) →
    ((s.head h).claim = none → exec (.arm (headPort h)) s = .next (s.withReply (headPort h) 0x33 .noClaim [])) ∧
    (∀ c, (s.head h).claim = some c →
      ((s.head h).engine ≠ .idle →
        exec (.arm (headPort h)) s = .next (s.withReply (headPort h) 0x33 .refusedState [])) ∧
      ((s.head h).engine = .idle → (s.head h).lines.stop = true →
        exec (.arm (headPort h)) s = .next (s.withReply (headPort h) 0x33 .stopped [])) ∧
      ((s.head h).engine = .idle → (s.head h).lines.stop = false → s.library.swapPending = true →
        exec (.arm (headPort h)) s = .next (s.withReply (headPort h) 0x33 .swapBusy [])) ∧
      ((s.head h).engine = .idle → (s.head h).lines.stop = false → s.library.swapPending = false →
        exec (.arm (headPort h)) s = .next
          ((s.modHead h (fun u =>
            { u with
                engine :=
                  .composing
                    { site := c.site, kind := c.kind, settings := u.settings.judged,
                      bankGeneration := s.library.generation } })).withReply (headPort h) 0x33 .accepted [])))

/-- The completion of a composition: too many stations or the lowest live pin that fails a test ends it in ARM_FAILED and IDLE with
the claim kept; otherwise the table is complete, `State.compose` of the head and the job, the engine ARMED and ARMED posted. The
model's choice (log entry 6): the command does nothing in any other engine state. -/
def Obligations.CompositionEnds : Prop :=
  ∀ (s : State) (h : Head),
    (engineState (s.head h).engine ≠ .composing → exec (.compositionCompletion h) s = .next s) ∧
    (∀ (job : Job) (x : Site) (stations lanes : Nat) (bad : Nat → Prop), (s.head h).engine = .composing job →
      x = s.site job.site → stations = (x.seatDepth + x.seatTolerance) / job.settings.stationPitch + 1 →
      lanes = (s.head h).tool.laneCount →
      (∀ k, bad k ↔ inSpan (x.firstPin, x.pinCount) k ∧ (s.pin k).live = true ∧
        (lanes ≤ (s.pin k).lane ∨
          profileAt s.library s.library.active ((s.pin k).pinType * 8 + (s.pin k).holeClass) = none)) →
      (∀ n : Notice,
        (job.kind = .press ∧ 128 < stations ∧
            n = { kind := .armFailed, head := some h, site := some job.site, reason := some 0,
                  station := some stations, lane := none }) ∨
        (¬ (job.kind = .press ∧ 128 < stations) ∧ ∃ k, bad k ∧ (∀ m, m < k → ¬ bad m) ∧
          (lanes ≤ (s.pin k).lane ∧
              n = { kind := .armFailed, head := some h, site := some job.site, reason := some 1, station := some k,
                    lane := some (s.pin k).lane } ∨
            (s.pin k).lane < lanes ∧
              n = { kind := .armFailed, head := some h, site := some job.site, reason := some 2, station := some k,
                    lane := none })) →
        ∃ t : State, exec (.compositionCompletion h) s = .next t ∧ EndsIdle s h .untouched [n] t ∧ storeKept s t) ∧
      (¬ (job.kind = .press ∧ 128 < stations) → (∀ k, ¬ bad k) →
        ∀ env : Envelope, env = s.compose h job →
          exec (.compositionCompletion h) s = .next
            ((s.modHead h (fun u => { u with engine := .armed job env })).postHead h
              { kind := .armed, head := some h, site := some job.site, reason := none, station := none,
                lane := none }) ∧
          env.lanes.length = lanes ∧
          env.stationCount = (if job.kind = .press then some stations else none) ∧
          (env.verifyThreshold.isSome ↔ job.kind = .verify) ∧
          ∀ lane e, env.lanes[lane]? = some e →
            (e.used = true ↔ ∃ k, inSpan (x.firstPin, x.pinCount) k ∧ (s.pin k).live = true ∧ (s.pin k).lane = lane) ∧
            (e.bounds.map List.length = if e.used = true ∧ job.kind = .press then some stations else none)))

/-- The bounds and totals of a composition: each pin window by the pin's own depth and its segment, rounded outward; each lane the
sums of its pins' windows widened by the guard, rounded outward; the seat total and the verify threshold. Under profiles and
settings within their laws every bound satisfies lower ≤ upper. -/
def Obligations.EnvelopeWithinLaw : Prop :=
  (∀ (p : Profile) (x : Int), profileLaw p →
    (pinWindow p.points x).lower ≤ (pinWindow p.points x).upper ∧ (pinWindow p.points x).upper ≤ 20000 ∧
    (∀ b, p.points.head? = some b → x < b.depth → pinWindow p.points x = { lower := 0, upper := b.upper }) ∧
    (∀ b, p.points.getLast? = some b → (b.depth : Int) ≤ x →
      pinWindow p.points x = { lower := b.lower, upper := b.upper }) ∧
    (∀ k b c, p.points[k]? = some b → p.points[k + 1]? = some c → (b.depth : Int) ≤ x → x < c.depth →
      ((pinWindow p.points x).lower : Int) =
          ⌊(b.lower : ℚ) + ((c.lower : ℚ) - b.lower) * ((x : ℚ) - b.depth) / ((c.depth : ℚ) - b.depth)⌋ ∧
      ((pinWindow p.points x).upper : Int) =
          ⌈(b.upper : ℚ) + ((c.upper : ℚ) - b.upper) * ((x : ℚ) - b.depth) / ((c.depth : ℚ) - b.depth)⌉)) ∧
  (∀ (s : State) (depth : Nat) (p : Pin) (q : Profile),
    profileAt s.library s.library.active (p.pinType * 8 + p.holeClass) = some q →
    s.pinAt depth p = pinWindow q.points ((depth : Int) - p.entryOffset)) ∧
  (∀ (s : State) (h : Head) (job : Job) (x : Site) (pins : List Pin) (env : Envelope),
    env = s.compose h job → x = s.site job.site →
    pins = ((List.range x.pinCount).map (fun k => s.pin (x.firstPin + k))).filter Pin.live →
    env.seatTotal = (pins.map (fun p => ((s.activeProfile p).map Profile.seatForce).getD 0)).sum ∧
    (job.kind = .verify →
      env.verifyThreshold = some ⌈((env.seatTotal * job.settings.verifyPercent : Nat) : ℚ) / 100⌉₊) ∧
    (∀ (lane k : Nat) (e : EnvelopeLane) (bs : List Bounds) (b : Bounds) (lows ups : Nat), env.lanes[lane]? = some e →
      e.bounds = some bs → bs[k]? = some b →
      lows = ((pins.filter (fun p => p.lane = lane)).map (fun p =>
        (s.pinAt (k * job.settings.stationPitch) p).lower)).sum →
      ups = ((pins.filter (fun p => p.lane = lane)).map (fun p =>
        (s.pinAt (k * job.settings.stationPitch) p).upper)).sum →
      b.lower = lows * (1000 - job.settings.guard) / 1000 ∧
      b.upper = ⌈((ups * (1000 + job.settings.guard) : Nat) : ℚ) / 1000⌉₊ ∧
      (PartLaw s → snapshotLaw job.settings → b.lower ≤ b.upper ∧ b.upper ≤ 25000 * pins.length)))

/-! ## The press stroke -/

/-- START: judged in its order; taken, the engine is in APPROACH with a fresh stroke context, the site PRESSING and the silence
timer running, and nothing else changes. -/
def Obligations.StartBegins : Prop :=
  ∀ (s : State) (h : Head), portFree (s.port (headPort h)) →
    (engineState (s.head h).engine ≠ .armed →
      exec (.start (headPort h)) s = .next (s.withReply (headPort h) 0x34 .refusedState [])) ∧
    (∀ job env, (s.head h).engine = .armed job env →
      ((s.head h).lines.stop = true →
        exec (.start (headPort h)) s = .next (s.withReply (headPort h) 0x34 .stopped [])) ∧
      ((s.head h).lines.stop = false → interlockActive (s.head h) = true →
        exec (.start (headPort h)) s = .next (s.withReply (headPort h) 0x34 .interlock [])) ∧
      ((s.head h).lines.stop = false → interlockActive (s.head h) = false → (s.head h).lines.override = .forceOff →
        exec (.start (headPort h)) s = .next (s.withReply (headPort h) 0x34 .lineForced [])) ∧
      ((s.head h).lines.stop = false → interlockActive (s.head h) = false → (s.head h).lines.override ≠ .forceOff →
        ∃ t : State, exec (.start (headPort h)) s = .next t ∧
          t = ({ s with map := { s.map with sites := t.map.sites } }.modHead h (fun u =>
            { u with
                engine :=
                  .stroke .approach job env
                    { tareSums := List.replicate u.tool.laneCount 0, tareCount := 0, tareZeros := none,
                      startDisplacement := none, contact := none, stationIndex := 0, coarse := 0,
                      lanes := List.replicate u.tool.laneCount { peak := 0, excursions := 0, first := none },
                      peakTotal := 0, maxDepth := none, seatedDepth := none,
                      remainingDwell := job.settings.dwell * 1000, outcome := none, offending := [],
                      faultLane := none, faultStation := none, retractTarget := none },
                link := { u.link with silence := some (job.settings.linkTimeout * 1000) } })).withReply
              (headPort h) 0x34 .ok [] ∧
          t.site job.site = { s.site job.site with state := .pressing } ∧
          (∀ i, i ≠ job.site → t.site i = s.site i) ∧
          ((s.head h).lines.override = .engine → permitLevel (t.head h) = true)))

/-- A frame that is malformed, fails its CRC or repeats the last accepted sequence changes nothing; every other is accepted, and in
IDLE, COMPOSING, ARMED and FAULTED it updates the receiver only. An accepted frame is well framed and its last byte is the CRC
of the bytes between the sync byte and it. The rest of a frame that a hard reset cut is lost, and the receiver begins after it
(which frames it cut is a free value, log entry 21). -/
def Obligations.FrameReception : Prop :=
  ∀ (s : State) (h : Head) (bytes : List Byte),
    ((s.head h).link.awaitIdle = true →
      exec (.sampleFrame h bytes) s = .next
        (s.modHead h (fun u => { u with link := { u.link with awaitIdle := false } }))) ∧
    ((s.head h).link.awaitIdle = false →
      (decodeSample bytes = none → exec (.sampleFrame h bytes) s = .next s) ∧
      (∀ n : Byte, bytes[5]? = some n →
        bytes[10 + 2 * n.toNat]? ≠ some (crc ((bytes.drop 1).take (9 + 2 * n.toNat))) →
        exec (.sampleFrame h bytes) s = .next s) ∧
      (∀ f g, decodeSample bytes = some f → (s.head h).link.lastFrame = some g → g.sequence = f.sequence →
        exec (.sampleFrame h bytes) s = .next s)) ∧
    (∀ f, accepts s h bytes f →
      (engineState (s.head h).engine = .idle ∨ engineState (s.head h).engine = .composing ∨
        engineState (s.head h).engine = .armed ∨ engineState (s.head h).engine = .faulted) →
      exec (.sampleFrame h bytes) s = .next
        (s.modHead h (fun u =>
          { u with
              link :=
                { u.link with
                    lastFrame := some f, sinceAccepted := some 0,
                    silence := u.link.silence.map (fun _ => linkTimeout u * 1000) } }))) ∧
    (∀ f, decodeSample bytes = some f →
      bytes.length = 11 + 2 * f.laneCount ∧ bytes.head? = some 0xB6 ∧ f.laneCount ≤ 16 ∧
        f.raws.length = f.laneCount ∧ bytes[1]? = some f.sequence ∧
        bytes[5]? = some (BitVec.ofNat 8 f.laneCount) ∧
        bytes[10 + 2 * f.laneCount]? = some (crc ((bytes.drop 1).take (9 + 2 * f.laneCount))))

/-- The tare zero is the mean of the eight values rounded to the nearest integer, a half going up; a measured force is the floor of
the tared raw value times the gain over 256, and 0 where that value is not above 0; the hard limits of a frame. -/
def Obligations.MeasuringAndLimits : Prop :=
  (∀ sum : Int, ((tareZero sum : ℚ) - 1 / 2 ≤ (sum : ℚ) / 8 ∧ (sum : ℚ) / 8 < (tareZero sum : ℚ) + 1 / 2)) ∧
  (∀ (gain : Nat) (zero raw : Int), (raw ≤ zero → measured gain zero raw = 0) ∧
    (zero < raw → (measured gain zero raw : Int) = ⌊(((raw - zero) * gain : Int) : ℚ) / 256⌋)) ∧
  (∀ (lanes : List LaneSetup) (zeros raws : List Int) (k : Nat) (l : LaneSetup) (z r : Int), lanes[k]? = some l →
    zeros[k]? = some z → raws[k]? = some r → (measureLanes lanes zeros raws)[k]? = some (measured l.gain z r)) ∧
  (∀ (tool : Tool) (settings : Snapshot) (f : Sample) (forces sat above : List Nat), tool.lanes.length = tool.laneCount →
    forces.length = tool.laneCount →
    sat = (List.range tool.laneCount).filter (fun k => f.saturation.getLsbD k) →
    above = (List.range tool.laneCount).filter (fun k =>
      decide (((tool.lanes[k]?).map LaneSetup.ceiling).getD 0 < (forces[k]?).getD 0)) →
    hardLimits tool settings f forces =
      if sat ≠ [] then some { offending := List.range tool.laneCount, faultLane := sat.head? }
      else if settings.headCeiling < forces.sum then
        some { offending := List.range tool.laneCount, faultLane := above.head? }
      else if above ≠ [] then some { offending := above, faultLane := above.head? }
      else none)

/-- The first eight frames of a stroke, while their stations and limits do not end it: each adds its raw values to the tare sums, the
first sets the start displacement, the eighth sets the zeros; one past the contact limit ends the stroke NO_CONTACT. -/
def Obligations.TareFramesTaken : Prop :=
  ∀ (s : State) (h : Head) (bytes : List Byte) (f : Sample) (held : Bool) (job : Job) (env : Envelope)
    (ctx ctx' : Stroke), accepts s h bytes f →
    (s.head h).engine = .stroke (phaseOf held .approach) job env ctx → ctx.tareCount < 8 →
    ¬ faultyFrame (s.head h).tool f → (∀ k, k < (s.head h).tool.laneCount → f.saturation.getLsbD k = false) →
    ctx.tareSums.length = f.raws.length →
    ctx' =
      { ctx with
          startDisplacement := if ctx.startDisplacement = none then some f.displacement else ctx.startDisplacement,
          tareSums := List.zipWith (fun x y => x + y) ctx.tareSums f.raws, tareCount := ctx.tareCount + 1,
          tareZeros :=
            if ctx.tareCount = 7 then
              some ((List.zipWith (fun x y => x + y) ctx.tareSums f.raws).map (fun x => (x + 4) / 8))
            else ctx.tareZeros } →
    (f.displacement ≤ (s.site job.site).contactLimit →
      exec (.sampleFrame h bytes) s = .next
        ((received s h f).modHead h (fun u => { u with engine := .stroke (phaseOf held .approach) job env ctx' }))) ∧
    ((s.site job.site).contactLimit < f.displacement →
      ∃ t : State, exec (.sampleFrame h bytes) s = .next t ∧
        Concludes (received s h f) h job env ctx' .noContact [] t)

/-- A measured frame that breaches no limit, in each state of a stroke, held or not: in APPROACH it is contact, or NO_CONTACT past the
limit, or stays; in ENGAGE, and as the contact frame, it is judged as an ENGAGE frame; in DWELL it enters the summaries
alone. -/
def Obligations.MeasuredFramesByState : Prop :=
  ∀ (s : State) (h : Head) (bytes : List Byte) (f : Sample) (held : Bool) (l : Live) (job : Job) (env : Envelope)
    (ctx c : Stroke) (forces : List Nat), accepts s h bytes f →
    (s.head h).engine = .stroke (phaseOf held l) job env ctx → (l = .approach → 8 ≤ ctx.tareCount) →
    ¬ faultyFrame (s.head h).tool f → forces = s.forces h ctx f →
    hardLimits (s.head h).tool job.settings f forces = none →
    c =
      { ctx with
          startDisplacement := if ctx.startDisplacement = none then some f.displacement else ctx.startDisplacement,
          lanes := raisePeaks ctx.lanes forces, peakTotal := max ctx.peakTotal forces.sum,
          maxDepth :=
            match ctx.contact, ctx.maxDepth with
            | some c, some d => some (max d (f.displacement - c))
            | some c, none => some (f.displacement - c)
            | none, d => d } →
    (l = .approach → job.settings.contactThreshold ≤ forces.sum →
      exec (.sampleFrame h bytes) s = .next
        (State.engageFrame
          ({ received s h f with
              slot0 := if job.kind = Kind.press then slotContacted h job env s.slot0 else s.slot0,
              slot1 := if job.kind = Kind.press then slotContacted h job env s.slot1 else s.slot1 }.modHead h (fun u =>
            { u with
                lines :=
                  { u.lines with
                      pulse := if u.lines.markSource = MarkSource.contact then some 10 else u.lines.pulse } }))
          h held job env { c with contact := some f.displacement, maxDepth := some 0 } f forces)) ∧
    (l = .approach → forces.sum < job.settings.contactThreshold →
      ((s.site job.site).contactLimit < f.displacement →
        ∃ t : State, exec (.sampleFrame h bytes) s = .next t ∧
          Concludes (received s h f) h job env c .noContact [] t) ∧
      (f.displacement ≤ (s.site job.site).contactLimit →
        exec (.sampleFrame h bytes) s = .next
          ((received s h f).modHead h (fun u => { u with engine := .stroke (phaseOf held .approach) job env c })))) ∧
    (l = .engage →
      exec (.sampleFrame h bytes) s = .next ((received s h f).engageFrame h held job env c f forces)) ∧
    (l = .dwell →
      exec (.sampleFrame h bytes) s = .next
        ((received s h f).modHead h (fun u => { u with engine := .stroke (phaseOf held .dwell) job env c })))

/-- The stations of an ENGAGE frame: which it evaluates, the coarse count, each used lane's excursions, the MARK pulses, and the trace
of the slots that fill. -/
def Obligations.StationsEvaluated : Prop :=
  ∀ (s : State) (h : Head) (job : Job) (env : Envelope) (ctx : Stroke) (f : Sample) (forces ks : List Nat)
    (hit : Bool), 0 < job.settings.stationPitch →
    ks = reachedStations (env.stationCount.getD 0) ctx.stationIndex job.settings.stationPitch
      (f.displacement - ctx.contact.getD 0) →
    (hit = true ↔ ∃ (k : Nat) (e : EnvelopeLane) (force : Nat),
      env.lanes[k]? = some e ∧ forces[k]? = some force ∧ excursionsOf ks e force ≠ []) →
    (∃ lanes, evaluateStations job env ctx f forces =
        { ctx with
            stationIndex := ctx.stationIndex + ks.length, coarse := ctx.coarse + (ks.length - 1), lanes := lanes } ∧
      lanes.length = ctx.lanes.length ∧
      ∀ (k : Nat) (e : EnvelopeLane) (force : Nat) (l : LaneTally), env.lanes[k]? = some e → forces[k]? = some force → ctx.lanes[k]? = some l →
        lanes[k]? = some (talliedWith l (excursionsOf ks e force))) ∧
    s.tellStations h job env ctx f forces =
      { s with
          slot0 := slotTraced h env ks f.displacement forces s.slot0,
          slot1 := slotTraced h env ks f.displacement forces s.slot1 }.modHead h (fun u =>
        { u with
            lines :=
              { u.lines with
                  pulse :=
                    if u.lines.markSource = MarkSource.station ∧ ks ≠ [] ∨
                        u.lines.markSource = MarkSource.excursion ∧ hit = true then some 10
                    else u.lines.pulse } })

/-- What an ENGAGE frame comes to after its stations: under STOP a failed lane ends a PRESS stroke WINDOW_FAIL; then the seat test,
early, late, seated or none; a VERIFY stroke fails past its travel, passes at its threshold, or stays. -/
def Obligations.EngageDecides : Prop :=
  ∀ (s : State) (h : Head) (held : Bool) (job : Job) (env : Envelope) (ctx : Stroke) (f : Sample) (forces : List Nat)
    (d : Int), d = f.displacement - ctx.contact.getD 0 →
    (∀ (c : Stroke) (u : State) (x : Site) (failed : Prop), job.kind = .press →
      c = evaluateStations job env ctx f forces → u = s.tellStations h job env ctx f forces → x = s.site job.site →
      (failed ↔ ∃ l ∈ c.lanes, job.settings.excursionAllowance < l.excursions) →
      (job.settings.failAction = .stop → failed →
        Concludes u h job env c .windowFail [] (s.engageFrame h held job env ctx f forces)) ∧
      (¬ (job.settings.failAction = .stop ∧ failed) →
        ((x.seatDepth : Int) + x.seatTolerance < d →
          Concludes u h job env c .notSeated [] (s.engageFrame h held job env ctx f forces)) ∧
        (d ≤ (x.seatDepth : Int) + x.seatTolerance → forces.sum < env.seatTotal →
          s.engageFrame h held job env ctx f forces =
            u.modHead h (fun w => { w with engine := .stroke (phaseOf held .engage) job env c })) ∧
        (d < (x.seatDepth : Int) - x.seatTolerance → env.seatTotal ≤ forces.sum →
          Concludes u h job env c .earlySeat [] (s.engageFrame h held job env ctx f forces)) ∧
        ((x.seatDepth : Int) - x.seatTolerance ≤ d → d ≤ (x.seatDepth : Int) + x.seatTolerance →
          env.seatTotal ≤ forces.sum →
          (0 < job.settings.dwell →
            s.engageFrame h held job env ctx f forces =
              u.modHead h (fun w =>
                { w with
                    engine :=
                      .stroke (phaseOf held .dwell) job env
                        { c with seatedDepth := some d, remainingDwell := job.settings.dwell * 1000 } })) ∧
          (job.settings.dwell = 0 →
            (failed → Concludes u h job env { c with seatedDepth := some d } .windowFail []
              (s.engageFrame h held job env ctx f forces)) ∧
            (¬ failed → Concludes u h job env { c with seatedDepth := some d } .seatedPass []
              (s.engageFrame h held job env ctx f forces)))))) ∧
    (∀ (threshold : Nat), job.kind = .verify → env.verifyThreshold = some threshold →
      ((job.settings.verifyTravel : Int) < d →
        Concludes s h job env ctx .verifyFail [] (s.engageFrame h held job env ctx f forces)) ∧
      (d ≤ job.settings.verifyTravel → threshold ≤ forces.sum →
        Concludes s h job env ctx .verifyPass [] (s.engageFrame h held job env ctx f forces)) ∧
      (d ≤ job.settings.verifyTravel → forces.sum < threshold →
        s.engageFrame h held job env ctx f forces =
          s.modHead h (fun w => { w with engine := .stroke (phaseOf held .engage) job env ctx })))

/-- A fault before the verdict, by a sensor fault, a saturated tare frame, a breach of the hard limits or the silence timer: the verdict
event with STROKE_FAULT, STOP asserted, the override ENGINE, the engine FAULTED and the silence timer stopped. In RETRACT the
late fault leaves the recorded outcome as it was, and a breach sets the offending lanes and the fault lane. The silence timer
expires with no time left, and in no other event. The model's choice: the saturation flags alone are the limits of a frame in
RETRACT without tare zeros (log entry 2), and the command does nothing while time is left (log entry 6). -/
def Obligations.FaultsStopHead : Prop :=
  ∀ (s : State) (h : Head) (job : Job) (env : Envelope) (ctx : Stroke),
    (∀ held l, (s.head h).engine = .stroke (phaseOf held l) job env ctx →
      (∀ bytes f, accepts s h bytes f → faultyFrame (s.head h).tool f →
        ∃ t : State, exec (.sampleFrame h bytes) s = .next t ∧
          Faults (received s h f) h job env ctx .sensorFault [] none t) ∧
      (∀ bytes f k, accepts s h bytes f → ¬ faultyFrame (s.head h).tool f → l = .approach → ctx.tareCount < 8 →
        k < (s.head h).tool.laneCount → f.saturation.getLsbD k = true →
        (∀ m, m < k → f.saturation.getLsbD m = false) →
        ∃ t : State, exec (.sampleFrame h bytes) s = .next t ∧
          Faults (received s h f) h job env (addTare (startContext ctx f) f) .overforce
            (List.range (s.head h).tool.laneCount) (some k) t) ∧
      (∀ bytes f forces b, accepts s h bytes f → ¬ faultyFrame (s.head h).tool f →
        (l = .approach → 8 ≤ ctx.tareCount) → forces = s.forces h ctx f →
        hardLimits (s.head h).tool job.settings f forces = some b →
        ∃ t : State, exec (.sampleFrame h bytes) s = .next t ∧
          Faults (received s h f) h job env (summarize (startContext ctx f) f forces) .overforce b.offending b.faultLane
            t) ∧
      ((s.head h).link.silence = some 0 →
        ∃ t : State, exec (.silenceTimerExpiry h) s = .next t ∧ Faults s h job env ctx .linkLost [] none t)) ∧
    ((s.head h).engine = .stroke .retract job env ctx →
      (∀ bytes f o late, accepts s h bytes f →
        (faultyFrame (s.head h).tool f ∧ o = .sensorFault ∧ late = ctx ∨
          ¬ faultyFrame (s.head h).tool f ∧ o = .overforce ∧ ∃ b, s.retractLimits h job ctx f = some b ∧
            late = { ctx with offending := b.offending, faultLane := b.faultLane }) →
        exec (.sampleFrame h bytes) s = .next
          (((received s h f).modHead h (fun u => faultedUnit u job env late)).postHead h
            { kind := .strokeFault, head := some h, site := some job.site, reason := some (outcomeCode o),
              station := none, lane := none })) ∧
      ((s.head h).link.silence = some 0 →
        exec (.silenceTimerExpiry h) s = .next
          ((s.modHead h (fun u => faultedUnit u job env ctx)).postHead h
            { kind := .strokeFault, head := some h, site := some job.site, reason := some (outcomeCode .linkLost),
              station := none, lane := none }))) ∧
    (∀ f sat, sat = (List.range (s.head h).tool.laneCount).filter (fun k => f.saturation.getLsbD k) →
      s.retractLimits h job ctx f =
        if ctx.tareZeros ≠ none then hardLimits (s.head h).tool job.settings f (s.forces h ctx f)
        else if sat ≠ [] then
          some { offending := List.range (s.head h).tool.laneCount, faultLane := sat.head? }
        else none) ∧
    ((s.head h).link.silence = some 0 →
      (strokeRuns (s.head h).engine = false ∨ engineState (s.head h).engine = .faulted) →
      exec (.silenceTimerExpiry h) s = .next
        (s.modHead h (fun u => { u with link := { u.link with silence := none } }))) ∧
    ((s.head h).link.silence ≠ some 0 → exec (.silenceTimerExpiry h) s = .next s)

/-- A frame in RETRACT that is no late fault: at or below the target it ends the stroke, the site and the claim by the outcome, with
STROKE_DONE and then a pending swap; above it the stroke stays in RETRACT; an absent target is set by the frame. The model's
choice (log entry 2): a stroke that has no tare zeros is judged in RETRACT on the saturation flags alone. -/
def Obligations.RetractEnds : Prop :=
  ∀ (s : State) (h : Head) (bytes : List Byte) (f : Sample) (job : Job) (env : Envelope) (ctx : Stroke) (target : Int),
    accepts s h bytes f → (s.head h).engine = .stroke .retract job env ctx → ¬ faultyFrame (s.head h).tool f →
    s.retractLimits h job ctx f = none →
    (ctx.retractTarget = some target ∨ ctx.retractTarget = none ∧ target = f.displacement) →
    (target < f.displacement →
      exec (.sampleFrame h bytes) s = .next
        ((received s h f).modHead h (fun u =>
          { u with engine := .stroke .retract job env { ctx with retractTarget := some target } }))) ∧
    (f.displacement ≤ target → ∀ o prior fate, ctx.outcome = some o → (s.site job.site).prior = some prior →
      StrokeFate job.site job.kind ctx.contact.isSome false (priorSite prior) o fate →
      ∃ t : State, exec (.sampleFrame h bytes) s = .next t ∧
        EndsIdle (received s h f) h fate [doneNotice h job.site o fate.state] t ∧ storeKept s t)

/-- The dwell's expiry, with no dwell left, decides the outcome in DWELL; the end of a pulse lets MARK follow its source. The
model's choice (log entry 6): while time is left, or where the timer does not run, the commands do nothing. -/
def Obligations.DwellAndPulseEnd : Prop :=
  ∀ (s : State) (h : Head),
    (∀ job env ctx, (s.head h).engine = .stroke .dwell job env ctx →
      (ctx.remainingDwell = 0 →
        ∃ t : State, exec (.dwellTimerExpiry h) s = .next t ∧
          ((∃ l ∈ ctx.lanes, job.settings.excursionAllowance < l.excursions) →
            Concludes s h job env ctx .windowFail [] t) ∧
          ((∀ l ∈ ctx.lanes, l.excursions ≤ job.settings.excursionAllowance) →
            Concludes s h job env ctx .seatedPass [] t)) ∧
      (ctx.remainingDwell ≠ 0 → exec (.dwellTimerExpiry h) s = .next s)) ∧
    (engineState (s.head h).engine ≠ .dwell → exec (.dwellTimerExpiry h) s = .next s) ∧
    ((s.head h).lines.pulse = some 0 →
      exec (.markPulseEnd h) s = .next (s.modHead h (fun u => { u with lines := { u.lines with pulse := none } }))) ∧
    ((s.head h).lines.pulse ≠ some 0 → exec (.markPulseEnd h) s = .next s)

/-- A movement of the INTERLOCK input: one that leaves the reading as it was does nothing more; becoming active it holds or aborts a
stroke, by the action; becoming inactive it lets a HELD engine return under HOLD_LEVEL. -/
def Obligations.InterlockActs : Prop :=
  ∀ (s u : State) (h : Head) (level : Bool),
    u = s.modHead h (fun w => { w with lines := { w.lines with interlockHigh := level } }) →
    (interlockActive (u.head h) = interlockActive (s.head h) → exec (.interlockChange h level) s = .next u) ∧
    ((strokeRuns (s.head h).engine = false ∨ engineState (s.head h).engine = .retract ∨
        engineState (s.head h).engine = .faulted) → exec (.interlockChange h level) s = .next u) ∧
    (interlockActive (s.head h) = false → interlockActive (u.head h) = true → ∀ l job env ctx,
      ((s.head h).engine = .stroke (livePhase l) job env ctx → (s.head h).settings.interlockAction ≠ .abort →
        exec (.interlockChange h level) s = .next
          ((u.modHead h (fun w => { w with engine := .stroke (.held l) job env ctx })).postHead h
            { kind := .interlockHold, head := some h, site := some job.site, reason := some 0,
              station := some ctx.stationIndex, lane := none })) ∧
      ((s.head h).engine = .stroke (.held l) job env ctx → (s.head h).settings.interlockAction ≠ .abort →
        exec (.interlockChange h level) s = .next u) ∧
      (((s.head h).engine = .stroke (livePhase l) job env ctx ∨ (s.head h).engine = .stroke (.held l) job env ctx) →
        (s.head h).settings.interlockAction = .abort →
        ∃ t : State, exec (.interlockChange h level) s = .next t ∧
          Concludes u h job env ctx .aborted
            [{ kind := .interlockHold, head := some h, site := some job.site, reason := some 1,
               station := some ctx.stationIndex, lane := none }] t)) ∧
    (interlockActive (s.head h) = true → interlockActive (u.head h) = false →
      (∀ l job env ctx, (s.head h).engine = .stroke (.held l) job env ctx →
        (s.head h).settings.interlockAction = .holdLevel →
        exec (.interlockChange h level) s = .next
          ((u.modHead h (fun w => { w with engine := .stroke (livePhase l) job env ctx })).postHead h
            { kind := .interlockResumed, head := some h, site := some job.site, reason := some (liveCode l),
              station := none, lane := none })) ∧
      (engineState (s.head h).engine ≠ .held ∨ (s.head h).settings.interlockAction ≠ .holdLevel →
        exec (.interlockChange h level) s = .next u))

/-- ABORT, from the head's port or the Cell Port naming the head: refused in IDLE, RETRACT and FAULTED; it abandons a composition,
discards an armed table, and ends a stroke ABORTED into RETRACT. RESUME returns a HELD engine once the interlock reads
inactive. -/
def Obligations.AbortAndResume : Prop :=
  (∀ (s : State) (h : Head) (p : Port) (field : Option Byte), portFree (s.port p) → reaches p field h →
    ((engineState (s.head h).engine = .idle ∨ engineState (s.head h).engine = .retract ∨
        engineState (s.head h).engine = .faulted) →
      exec (.abort p field) s = .next (s.withReply p 0x35 .refusedState [])) ∧
    (∀ job, (s.head h).engine = .composing job →
      ∃ t : State, exec (.abort p field) s = .next (t.withReply p 0x35 .ok []) ∧ storeKept s t ∧
        EndsIdle s h .untouched
          [{ kind := .armFailed, head := some h, site := some job.site, reason := some 3, station := none,
             lane := none }] t) ∧
    (engineState (s.head h).engine = .armed →
      ∃ t : State, exec (.abort p field) s = .next (t.withReply p 0x35 .ok []) ∧ storeKept s t ∧
        EndsIdle s h .untouched [] t) ∧
    (∀ held l job env ctx, (s.head h).engine = .stroke (phaseOf held l) job env ctx →
      ∃ t : State, exec (.abort p field) s = .next (t.withReply p 0x35 .ok []) ∧
        Concludes s h job env ctx .aborted [] t) ∧
    (engineState (s.head h).engine ≠ .held →
      exec (.resume p field) s = .next (s.withReply p 0x36 .refusedState [])) ∧
    (∀ l job env ctx, (s.head h).engine = .stroke (.held l) job env ctx →
      (interlockActive (s.head h) = true →
        exec (.resume p field) s = .next (s.withReply p 0x36 .interlock [])) ∧
      (interlockActive (s.head h) = false →
        exec (.resume p field) s = .next
          (((s.modHead h (fun u => { u with engine := .stroke (livePhase l) job env ctx })).postHead h
            { kind := .interlockResumed, head := some h, site := some job.site, reason := some (liveCode l),
              station := none, lane := none }).withReply p 0x36 .ok [])))) ∧
  (∀ (s : State) (b : Byte), portFree s.cell → 1 < b.toNat →
    exec (.abort .cell (some b)) s = .next (s.withReply .cell 0x35 .range []) ∧
    exec (.resume .cell (some b)) s = .next (s.withReply .cell 0x36 .range []))

/-- HEAD_CLEAR is taken in every engine state: it ends what the engine does with its notices, releases the site and the claim, removes
the wait and releases STOP, and changes nothing of the other head but the due mark of its wait. -/
def Obligations.HeadCleared : Prop :=
  (∀ (s : State) (h : Head) (p : Port) (field : Option Byte) (clear : HeadUnit → HeadUnit), portFree (s.port p) →
    reaches p field h → clear = (fun u => { u with waiting := none, lines := { u.lines with stop := false } }) →
    ((s.head h).engine = .idle → (s.head h).claim = none →
      exec (.headClear p field) s = .next ((s.modHead h clear).withReply p 0x37 .ok [])) ∧
    (∀ c prior, (s.head h).claim = some c → (s.site c.site).prior = some prior →
      ((s.head h).engine = .idle →
        ∃ t : State, exec (.headClear p field) s = .next ((t.modHead h clear).withReply p 0x37 .ok []) ∧
          t = { s with map := { s.map with sites := t.map.sites }, headA := t.headA, headB := t.headB } ∧
          t.head h = { s.head h with claim := none } ∧
          t.head (otherHead h) =
            { s.head (otherHead h) with waiting := waitAfter true (s.head (otherHead h)).waiting } ∧
          ∀ i, t.site i = (SiteFate.released c.site (priorSite prior)).site s i) ∧
      (∀ job, (s.head h).engine = .composing job →
        ∃ t : State, exec (.headClear p field) s = .next ((t.modHead h clear).withReply p 0x37 .ok []) ∧
          storeKept s t ∧
          EndsIdle s h (.released c.site (priorSite prior))
            [{ kind := .armFailed, head := some h, site := some job.site, reason := some 3, station := none,
               lane := none }] t) ∧
      (engineState (s.head h).engine = .armed →
        ∃ t : State, exec (.headClear p field) s = .next ((t.modHead h clear).withReply p 0x37 .ok []) ∧
          storeKept s t ∧ EndsIdle s h (.released c.site (priorSite prior)) [] t)) ∧
    (∀ held l job env ctx prior fate, (s.head h).engine = .stroke (phaseOf held l) job env ctx →
      (s.site job.site).prior = some prior →
      StrokeFate job.site job.kind ctx.contact.isSome true (priorSite prior) .aborted fate →
      ∃ m t, exec (.headClear p field) s = .next ((t.modHead h clear).withReply p 0x37 .ok []) ∧
        StrokeKept s m h ∧ m.head h = s.head h ∧ VerdictLeft s h job env ctx .aborted m ∧
        VerdictTold s h .aborted [verdictOf h job .aborted] [] m ∧
        m.cell.transfer = transferAfter job.site s.cell.transfer ∧ storeKept m t ∧
        EndsIdle m h fate [doneNotice h job.site .aborted fate.state] t) ∧
    (∀ ph job env ctx o prior fate, (s.head h).engine = .stroke ph job env ctx → ph = .retract ∨ ph = .faulted →
      ctx.outcome = some o → (s.site job.site).prior = some prior →
      StrokeFate job.site job.kind ctx.contact.isSome true (priorSite prior) o fate →
      ∃ t : State, exec (.headClear p field) s = .next ((t.modHead h clear).withReply p 0x37 .ok []) ∧
        storeKept s t ∧ EndsIdle s h fate [doneNotice h job.site o fate.state] t)) ∧
  (∀ (s : State) (b : Byte), portFree s.cell → 1 < b.toNat →
    exec (.headClear .cell (some b)) s = .next (s.withReply .cell 0x37 .range []))

/-- RESTART is taken whatever the Cell Port holds: both engines IDLE, no claim and no wait, strokes without a verdict recorded ABORTED,
sites resolved, settings by KEEP, STOP asserted, every port and queue empty but for a swap's SWAP_DONE, and the reply;
the rest of the map, the tools, the last frames and the library but for the swap are kept. A transaction in progress on a Head
Port is dropped: the rest of a write is taken as nothing, the rest of a read clocks out 00. The model's choice: the bytes of
the RESTART reply (log entry 12), head A's engine state before head B's in it (log entry 22), and the rows that carry the rest
of the transaction (log entry 7). -/
def Obligations.RestartEnds : Prop :=
  ∀ (s : State), ArbiterLaw s →
    ∃ t m : State, exec (.restart .cell) s = .next t ∧
      t = { s with
        map := { s.map with sites := t.map.sites }, library := t.library, headA := t.headA, headB := t.headB,
        records := t.records, verdicts := t.verdicts, slot0 := t.slot0, slot1 := t.slot1, cell := t.cell,
        portA := t.portA, portB := t.portB } ∧
      (∀ h, t.head h =
        { s.head h with
            settings := if s.keep then (s.head h).settings else Settings.default, claim := none, waiting := none,
            engine := .idle, link := { (s.head h).link with silence := none },
            lines := { (s.head h).lines with stop := true, override := .engine } }) ∧
      RestartVerdict s .a m ∧ m.map = s.map ∧ m.headB = s.headB ∧ RestartVerdict m .b t ∧
      (∀ h c, (s.head h).claim = some c →
        (strokeRuns (s.head h).engine = false →
          t.site c.site =
            { s.site c.site with state := priorSite (priorOf c.kind), holder := none, prior := none }) ∧
        (∀ ph job env ctx o st, (s.head h).engine = .stroke ph job env ctx →
          ((phaseLive ph).isSome ∧ o = .aborted ∨ phaseLive ph = none ∧ ctx.outcome = some o) →
          StrokeFate job.site job.kind ctx.contact.isSome true (priorSite (priorOf c.kind)) o (.released job.site st) →
          t.site c.site = { s.site c.site with state := st, holder := none, prior := none })) ∧
      (∀ i, (∀ h c, (s.head h).claim = some c → c.site ≠ i) → t.site i = s.site i) ∧
      t.library =
        (if s.library.swapPending then
          { s.library with
              active := otherBank s.library.active, generation := s.library.generation + 1, swapPending := false }
        else s.library) ∧
      (∀ p, t.port p =
        { reply :=
            if p = .cell then
              some
                { code := 0x05, status := .ok, more := false,
                  payload :=
                    u8 (engineStateCode (engineState s.headA.engine)) ++
                      u8 (engineStateCode (engineState s.headB.engine)) ++ [if s.map.mode = .active then 1 else 0] ++
                      le16 s.map.generation ++ le16 t.library.generation ++ [0] }
            else none,
          transfer := none, discarded := false,
          reception := if p = .cell then none else (s.port p).reception.map (fun x => .lapsed (readsOn x)),
          queue :=
            { items :=
                if s.library.swapPending then
                  [{ kind := .swapDone, head := none, site := none, reason := none,
                     station := some (s.library.generation + 1).toNat, lane := none }]
                else [],
              overrun := false },
          wire := (s.port p).wire }) ∧
      (∀ (p : Port) (x : Reception) (bytes rest : List Byte), p ≠ .cell → (s.port p).reception = some x →
        rest = (if readsOn x then List.replicate bytes.length 0x00 else []) →
        exec (.unknown p bytes) t = .next (t.modPort p (fun u => { u with wire := u.wire ++ rest })) ∧
        exec (.incompleteFrame p bytes) t = .next (t.modPort p (fun u =>
          { u with wire := u.wire ++ rest, reception := none })))

/-! ## The Watch Unit and the Record Store -/

/-- ARM_WATCH and DISARM_WATCH: judged in their order; taken, the slot is ARMED with its match, or EMPTY, with no source, outcome or
trace, and nothing else changes. The state byte of the reply is a free value (log entry 3). -/
def Obligations.WatchSlotsPointed : Prop :=
  ∀ (s : State) (slot site lane : Byte) (put : WatchSlot → State), portFree s.cell →
    put = (fun w => if slot = 0 then { s with slot0 := w } else { s with slot1 := w }) →
    (1 < slot.toNat ∨ 63 < site.toNat ∧ site ≠ 255 ∨ 15 < lane.toNat →
      exec (.armWatch .cell slot site lane) s = .next (s.withReply .cell 0x48 .range [])) ∧
    (slot.toNat ≤ 1 → site.toNat ≤ 63 ∨ site = 255 → lane.toNat ≤ 15 →
      exec (.armWatch .cell slot site lane) s = .next
        (if (s.slot slot.toNat).state = .filling then s.withReply .cell 0x48 .busy []
         else
           (put
             { state := .armed, matchSite := some (if site = 255 then .any else .site site.toNat),
               matchLane := some lane.toNat, source := none, outcome := none, trace := [] }).withReply .cell 0x48 .ok
             [slot, Config.watchStateCode 1, site, lane])) ∧
    (1 < slot.toNat → exec (.disarmWatch .cell slot) s = .next (s.withReply .cell 0x49 .range [])) ∧
    (slot.toNat ≤ 1 →
      exec (.disarmWatch .cell slot) s = .next
        (if (s.slot slot.toNat).state = .filling then s.withReply .cell 0x49 .busy []
         else
           (put
             { state := .empty, matchSite := none, matchLane := none, source := none, outcome := none,
               trace := [] }).withReply .cell 0x49 .ok [slot, Config.watchStateCode 0]))

/-- The verdict that a verdict event gives each pin of its site, by the outcome, the claim kind and the pin's lane and entry
offset. -/
def Obligations.PinVerdictsByOutcome : Prop :=
  ∀ (s : State) (h : Head) (job : Job) (env : Envelope) (ctx : Stroke) (o : StrokeOutcome) (isFault : Bool) (k : Nat)
    (p : Pin) (before v : PinVerdict) (failed offends : Prop),
    inSpan (pinSpan (s.site job.site)) k → p = s.pin k → before = s.verdict k →
    v = (s.verdictEvent h job env ctx o isFault).verdict k →
    (failed ↔ ∃ l, ctx.lanes[p.lane]? = some l ∧ job.settings.excursionAllowance < l.excursions) →
    (offends ↔ p.lane ∈ ctx.offending) →
    (job.kind = .press → p.live = false → v = .empty) ∧
    (job.kind = .press → p.live = true →
      (o = .seatedPass → v = .pass) ∧
      (o = .windowFail → ctx.seatedDepth ≠ none → (failed → v = .laneFail) ∧ (¬ failed → v = .pass)) ∧
      ((o = .windowFail ∧ ctx.seatedDepth = none ∨ o = .earlySeat ∨ o = .notSeated) →
        (failed → v = .laneFail) ∧ (¬ failed → v = .notSeated)) ∧
      (o = .overforce → (offends → v = .overforce) ∧ (¬ offends → failed → v = .laneFail) ∧
        (¬ offends → ¬ failed → v = .notSeated)) ∧
      (o = .noContact → v = .notPressed) ∧
      ((o = .aborted ∨ o = .linkLost ∨ o = .sensorFault) →
        (ctx.contact = none → v = .notPressed) ∧
        (∀ d, ctx.contact ≠ none → ctx.maxDepth = some d →
          ((p.entryOffset : Int) ≤ d → v = .partialIn) ∧ (d < p.entryOffset → v = .notPressed)))) ∧
    (job.kind = .verify →
      (p.live = false → v = before) ∧
      (p.live = true →
        (o = .verifyFail → v = .notSeated) ∧
        (o = .overforce → (offends → v = .overforce) ∧ (¬ offends → v = .notSeated)) ∧
        ((o = .verifyPass ∨ o = .noContact ∨ o = .aborted ∨ o = .linkLost ∨ o = .sensorFault) → v = before)))

/-! ## Laws that every step keeps -/

/-- Every step keeps the laws of the notice queues, of PERMIT and FORCE_ON, of the bank generation and the pending swap, of every
stored range, of the watch slots, and of the canonical form of the tables. -/
def Obligations.PartLawKept : Prop :=
  ∀ s t : State, PartLaw s → step s = .next t → PartLaw t

/-- Every step keeps the laws of claims, waits, holders, keep-out, locks and MAP_EDIT. -/
def Obligations.ArbiterLawKept : Prop :=
  ∀ s t : State, ArbiterLaw s → step s = .next t → ArbiterLaw t

/-- Every step keeps the law of the strokes and of the Press Records: no lane has more excursions than stations evaluated, and no
more than 128 stations are. -/
def Obligations.WorkLawKept : Prop :=
  ∀ s t : State, WorkLaw s → step s = .next t → WorkLaw t

/-- No command that concerns one head alone changes anything of the other head but the due mark of its waiting claim, nor anything of
the other head's port but its queue. -/
def Obligations.HeadsIsolated : Prop :=
  ∀ (c : Instr) (h : Head) (s t : State), Concerns h c → exec c s = .next t →
    ((t.head (otherHead h)) = s.head (otherHead h) ∨
      t.head (otherHead h) =
        { s.head (otherHead h) with
            waiting := (s.head (otherHead h)).waiting.map (fun w => { w with due := true }) }) ∧
    t.port (headPort (otherHead h)) =
      { s.port (headPort (otherHead h)) with queue := (t.port (headPort (otherHead h))).queue }

/-- HARD_RESET leaves the values of the manual, whatever stood before; a receiver whose frame it cut, a free value (log entry 21),
or which waits from an earlier reset, waits for its link to fall idle. What lies outside the part, the queue of commands and the level of each INTERLOCK pin, is
kept, the model's choice (log entry 1). The state it leaves, and the state after reset, satisfy the laws. -/
def Obligations.HardResetValues : Prop :=
  (∀ s : State, ∃ t : State, exec .hardReset s = .next t ∧ t.pending = s.pending ∧
    t.map.mode = .edit ∧ t.map.generation = 0 ∧ t.map.keepOut = 0 ∧
    (∀ i, t.site i =
      { state := .unused, x := 0, y := 0, toolCode := 0, firstPin := 0, pinCount := 0, contactLimit := 0,
        seatDepth := 100, seatTolerance := 0, holder := none, prior := none }) ∧
    (∀ k, t.pin k =
      { live := false, lane := 0, pinType := 0, holeClass := 0, entryOffset := 0, row := 0, column := 0 }) ∧
    (∀ i, t.locked i = false) ∧
    (∀ b place, profileAt t.library b place = none) ∧ t.library.active = .zero ∧ t.library.generation = 0 ∧
    t.library.swapPending = false ∧ t.keep = false ∧
    (∀ h, t.head h =
      { tool := { laneCount := 0, toolCode := 0, lanes := [] }, settings := Settings.default, claim := none,
        waiting := none, engine := .idle,
        link :=
          { lastFrame := none, sinceAccepted := none, silence := none,
            awaitIdle := ((s.head h).link.awaitIdle || Config.frameCut h (s.head h).link.resets),
            resets := (s.head h).link.resets + 1 },
        lines :=
          { override := .engine, stop := true, markSource := .off, pulse := none,
            interlockHigh := (s.head h).lines.interlockHigh } }) ∧
    (∀ i, t.record i = PressRecord.emptyForm) ∧ (∀ k, t.verdict k = .noVerdict) ∧
    t.slot0 = WatchSlot.clear ∧ t.slot1 = WatchSlot.clear ∧ t.blockSize = 8 ∧
    (∀ p, t.port p =
      { reply := none, transfer := none, discarded := false, reception := none,
        queue := { items := [], overrun := false }, wire := [] }) ∧
    PartLaw t ∧ ArbiterLaw t ∧ WorkLaw t) ∧
  PartLaw State.reset ∧ ArbiterLaw State.reset ∧ WorkLaw State.reset

/-- The frame of every well-formed request spells that request on its port, and a sound sample frame spells its fields. -/
def Obligations.FramesRoundTrip : Prop :=
  (∀ (i : Instr) (p : Port), requestPort i = some p → wellFormed i = true →
    readTransaction (encodeFrame i) = .frame (requestCode i) (fieldBytes i) ∧
      parseRequest p (requestCode i) (fieldBytes i) = some i) ∧
  (∀ f : Sample, f.laneCount ≤ 16 → f.raws.length = f.laneCount →
    (-2147483648 ≤ f.displacement ∧ f.displacement ≤ 2147483647) → (∀ r ∈ f.raws, -32768 ≤ r ∧ r ≤ 32767) →
    decodeSample (encodeSample f) = some f)
end

