-- ==== Sys2Proof/Laws/Frames.lean ====
section
/-! SUPPORT. Frames as bytes: fields read back as written, lists of entries, requests and sample frames. -/

namespace Sys2Proof

theorem ofLe16_le16 (v : Half) : ofLe16 (v.setWidth 8) ((v >>> 8).setWidth 8) = v := by
  unfold ofLe16
  ext i hi
  simp only [BitVec.getElem_append, BitVec.getElem_setWidth, BitVec.getLsbD_ushiftRight]
  split
  · simp [BitVec.getLsbD_eq_getElem hi]
  · rename_i h; rw [show 8 + (i - 8) = i by omega]; simp [BitVec.getLsbD_eq_getElem hi]

theorem getLsbD_ofLe16 (b0 b1 : Byte) (i : Nat) :
    (ofLe16 b0 b1).getLsbD i = if i < 8 then b0.getLsbD i else b1.getLsbD (i - 8) :=
  BitVec.getLsbD_append (x := b1) (y := b0)

theorem getLsbD_ofLe32 (b0 b1 b2 b3 : Byte) (i : Nat) :
    (ofLe32 b0 b1 b2 b3).getLsbD i =
      if i < 8 then b0.getLsbD i
      else if i - 8 < 8 then b1.getLsbD (i - 8)
      else if i - 8 - 8 < 8 then b2.getLsbD (i - 8 - 8) else b3.getLsbD (i - 8 - 8 - 8) := by
  unfold ofLe32
  refine (BitVec.getLsbD_append (x := b3 ++ b2 ++ b1) (y := b0)).trans ?_
  split
  · rfl
  · refine (BitVec.getLsbD_append (x := b3 ++ b2) (y := b1)).trans ?_
    split
    · rfl
    · exact BitVec.getLsbD_append (x := b3) (y := b2)

theorem le16_ofLe16 (b0 b1 : Byte) : le16 (ofLe16 b0 b1) = [b0, b1] := by
  unfold le16
  simp only [List.cons.injEq, and_true]
  constructor <;> apply BitVec.eq_of_getLsbD_eq <;> intro i hi <;>
    simp [getLsbD_ofLe16, hi]

theorem ofLe32_le32 (v : Word) :
    ofLe32 (v.setWidth 8) ((v >>> 8).setWidth 8) ((v >>> 16).setWidth 8) ((v >>> 24).setWidth 8) = v := by
  unfold ofLe32
  ext i hi
  simp only [BitVec.getElem_append, BitVec.getElem_setWidth, BitVec.getLsbD_ushiftRight]
  split
  · simp [BitVec.getLsbD_eq_getElem hi]
  · split
    · rw [show 8 + (i - 8) = i by omega]; simp [BitVec.getLsbD_eq_getElem hi]
    · split
      · rw [show 16 + (i - 8 - 8) = i by omega]; simp [BitVec.getLsbD_eq_getElem hi]
      · rw [show 24 + (i - 8 - 8 - 8) = i by omega]; simp [BitVec.getLsbD_eq_getElem hi]

theorem le32_ofLe32 (b0 b1 b2 b3 : Byte) : le32 (ofLe32 b0 b1 b2 b3) = [b0, b1, b2, b3] := by
  unfold le32
  simp only [List.cons.injEq, and_true]
  refine ⟨?_, ?_, ?_, ?_⟩ <;> apply BitVec.eq_of_getLsbD_eq <;> intro i hi <;>
    simp only [BitVec.getLsbD_setWidth, BitVec.getLsbD_ushiftRight, getLsbD_ofLe32, hi, decide_true, Bool.true_and,
      if_true]
  · rw [if_neg (by omega), if_pos (by omega), show 8 + i - 8 = i by omega]
  · rw [if_neg (by omega), if_neg (by omega), if_pos (by omega), show 16 + i - 8 - 8 = i by omega]
  · rw [if_neg (by omega), if_neg (by omega), if_neg (by omega), show 24 + i - 8 - 8 - 8 = i by omega]

theorem parsePins_bytes (es : List PinEntry) : parsePins (es.flatMap PinEntry.bytes) = some es := by
  induction es with
  | nil => rfl
  | cons e es ih =>
    simp only [List.flatMap_cons, PinEntry.bytes, le16, List.cons_append, List.nil_append, parsePins, ih,
      Option.map_some, ofLe16_le16]

theorem parsePoints_bytes (es : List PointEntry) : parsePoints (es.flatMap PointEntry.bytes) = some es := by
  induction es with
  | nil => rfl
  | cons e es ih =>
    simp only [List.flatMap_cons, PointEntry.bytes, le16, List.cons_append, List.nil_append, parsePoints, ih,
      Option.map_some, ofLe16_le16]

theorem parseLanes_bytes (es : List LaneEntry) : parseLanes (es.flatMap LaneEntry.bytes) = some es := by
  induction es with
  | nil => rfl
  | cons e es ih =>
    simp only [List.flatMap_cons, LaneEntry.bytes, le32, List.cons_append, List.nil_append, parseLanes, ih,
      Option.map_some, ofLe32_le32]

theorem bytes_of_parsePins (bs : List Byte) (es : List PinEntry) (h : parsePins bs = some es) :
    es.flatMap PinEntry.bytes = bs := by
  fun_induction parsePins bs generalizing es with
  | case1 => simp at h; subst h; rfl
  | case2 live lane pinType holeClass o0 o1 row column rest ih =>
    simp only [Option.map_eq_some_iff] at h
    obtain ⟨es', h', rfl⟩ := h
    simp only [List.flatMap_cons, ih _ h', PinEntry.bytes, le16_ofLe16]
    rfl
  | case3 => simp at h

theorem bytes_of_parsePoints (bs : List Byte) (es : List PointEntry) (h : parsePoints bs = some es) :
    es.flatMap PointEntry.bytes = bs := by
  fun_induction parsePoints bs generalizing es with
  | case1 => simp at h; subst h; rfl
  | case2 d0 d1 l0 l1 u0 u1 rest ih =>
    simp only [Option.map_eq_some_iff] at h
    obtain ⟨es', h', rfl⟩ := h
    simp only [List.flatMap_cons, ih _ h', PointEntry.bytes, le16_ofLe16]
    rfl
  | case3 => simp at h

theorem bytes_of_parseLanes (bs : List Byte) (es : List LaneEntry) (h : parseLanes bs = some es) :
    es.flatMap LaneEntry.bytes = bs := by
  fun_induction parseLanes bs generalizing es with
  | case1 => simp at h; subst h; rfl
  | case2 g0 g1 g2 g3 c0 c1 c2 c3 rest ih =>
    simp only [Option.map_eq_some_iff] at h
    obtain ⟨es', h', rfl⟩ := h
    simp only [List.flatMap_cons, ih _ h', LaneEntry.bytes, le32_ofLe32]
    rfl
  | case3 => simp at h

theorem parseNone_some (fields : List Byte) (i j : Instr) (h : parseNone fields i = some j) : fields = [] ∧ j = i := by
  unfold parseNone at h
  split at h
  · simp at h; exact ⟨rfl, h.symm⟩
  · simp at h

theorem parseOne_some (fields : List Byte) (f : Byte → Instr) (j : Instr) (h : parseOne fields f = some j) :
    ∃ b, fields = [b] ∧ j = f b := by
  unfold parseOne at h
  split at h
  · simp at h; exact ⟨_, rfl, h.symm⟩
  · simp at h

theorem parseTwo_some (fields : List Byte) (f : Byte → Byte → Instr) (j : Instr) (h : parseTwo fields f = some j) :
    ∃ b c, fields = [b, c] ∧ j = f b c := by
  unfold parseTwo at h
  split at h
  · simp at h; exact ⟨_, _, rfl, h.symm⟩
  · simp at h

theorem parseThree_some (fields : List Byte) (f : Byte → Byte → Byte → Instr) (j : Instr)
    (h : parseThree fields f = some j) : ∃ b c d, fields = [b, c, d] ∧ j = f b c d := by
  unfold parseThree at h
  split at h
  · simp at h; exact ⟨_, _, _, rfl, h.symm⟩
  · simp at h

theorem parseHead_some (fields : List Byte) (f : Option Byte → Instr) (j : Instr)
    (h : parseHead fields f = some j) : ∃ o : Option Byte, fields = o.toList ∧ j = f o := by
  unfold parseHead at h
  split at h
  · simp at h; exact ⟨none, rfl, h.symm⟩
  · simp at h; exact ⟨some _, rfl, h.symm⟩
  · simp at h

theorem parseSite_some (fields : List Byte) (f : Byte → SiteFields → Instr) (j : Instr)
    (h : parseSite fields f = some j) : ∃ b x, fields = b :: SiteFields.bytes x ∧ j = f b x := by
  unfold parseSite at h
  split at h
  · simp at h
    refine ⟨_, _, ?_, h.symm⟩
    simp only [SiteFields.bytes, le16_ofLe16, le32_ofLe32]; rfl
  · simp at h

theorem parseWritePins_some (fields : List Byte) (f : Half → Byte → List PinEntry → Instr) (j : Instr)
    (h : parseWritePins fields f = some j) :
    ∃ a b es, fields = le16 a ++ [b] ++ es.flatMap PinEntry.bytes ∧ j = f a b es := by
  unfold parseWritePins at h
  split at h
  · simp only [Option.map_eq_some_iff] at h
    obtain ⟨es, h1, h2⟩ := h
    refine ⟨_, _, es, ?_, h2.symm⟩
    rw [bytes_of_parsePins _ _ h1, le16_ofLe16]; rfl
  · simp at h

theorem parseWriteProfile_some (fields : List Byte) (f : Byte → Byte → Byte → Half → List PointEntry → Instr) (j : Instr)
    (h : parseWriteProfile fields f = some j) :
    ∃ a b c v es, fields = [a, b, c] ++ le16 v ++ es.flatMap PointEntry.bytes ∧ j = f a b c v es := by
  unfold parseWriteProfile at h
  split at h
  · simp only [Option.map_eq_some_iff] at h
    obtain ⟨es, h1, h2⟩ := h
    refine ⟨_, _, _, _, es, ?_, h2.symm⟩
    rw [bytes_of_parsePoints _ _ h1, le16_ofLe16]; rfl
  · simp at h

theorem parseSetTool_some (fields : List Byte) (f : Byte → Byte → Byte → List LaneEntry → Instr) (j : Instr)
    (h : parseSetTool fields f = some j) :
    ∃ a b c es, fields = [a, b, c] ++ es.flatMap LaneEntry.bytes ∧ j = f a b c es := by
  unfold parseSetTool at h
  split at h
  · simp only [Option.map_eq_some_iff] at h
    obtain ⟨es, h1, h2⟩ := h
    refine ⟨_, _, _, es, ?_, h2.symm⟩
    rw [bytes_of_parseLanes _ _ h1]; rfl
  · simp at h

theorem parseSetHead_some (fields : List Byte) (f : Byte → Byte → Word → Instr) (j : Instr)
    (h : parseSetHead fields f = some j) : ∃ a b v, fields = [a, b] ++ le32 v ∧ j = f a b v := by
  unfold parseSetHead at h
  split at h
  · simp at h
    refine ⟨_, _, _, ?_, h.symm⟩
    rw [le32_ofLe32]; rfl
  · simp at h

theorem parseReadPins_some (fields : List Byte) (f : Byte → Half → Byte → Instr) (j : Instr)
    (h : parseReadPins fields f = some j) : ∃ a v b, fields = [a] ++ le16 v ++ [b] ∧ j = f a v b := by
  unfold parseReadPins at h
  split at h
  · simp at h
    refine ⟨_, _, _, ?_, h.symm⟩
    rw [le16_ofLe16]; rfl
  · simp at h

/-- What a spelled request says of its port, its code and its fields. -/
theorem parseRequest_some (p : Port) (code : Byte) (fields : List Byte) (i : Instr)
    (h : parseRequest p code fields = some i) : requestPort i = some p ∧ requestCode i = code ∧ fieldBytes i = fields := by
  have hc : ∀ n : Nat, code.toNat = n → code = BitVec.ofNat 8 n := by
    intro n hn; rw [← hn]; simp
  unfold parseRequest at h
  split at h
  all_goals
    first
    | (rename_i hn; rw [hc _ hn])
    | skip
  case h_39 => simp at h
  all_goals
    first
    | (obtain ⟨rfl, rfl⟩ := parseNone_some _ _ _ h; exact ⟨rfl, rfl, rfl⟩)
    | (obtain ⟨_, rfl, rfl⟩ := parseOne_some _ _ _ h; exact ⟨rfl, rfl, rfl⟩)
    | (obtain ⟨_, _, rfl, rfl⟩ := parseTwo_some _ _ _ h; first | exact ⟨rfl, rfl, rfl⟩ | exact ⟨rfl, rfl, le16_ofLe16 _ _⟩)
    | (obtain ⟨_, _, _, rfl, rfl⟩ := parseThree_some _ _ _ h; exact ⟨rfl, rfl, rfl⟩)
    | (obtain ⟨_, rfl, rfl⟩ := parseHead_some _ _ _ h; exact ⟨rfl, rfl, rfl⟩)
    | (obtain ⟨_, _, rfl, rfl⟩ := parseSite_some _ _ _ h; exact ⟨rfl, rfl, rfl⟩)
    | (obtain ⟨_, _, _, rfl, rfl⟩ := parseWritePins_some _ _ _ h; exact ⟨rfl, rfl, rfl⟩)
    | (obtain ⟨_, _, _, _, _, rfl, rfl⟩ := parseWriteProfile_some _ _ _ h; exact ⟨rfl, rfl, rfl⟩)
    | (obtain ⟨_, _, _, _, rfl, rfl⟩ := parseSetTool_some _ _ _ h; exact ⟨rfl, rfl, rfl⟩)
    | (obtain ⟨_, _, _, rfl, rfl⟩ := parseSetHead_some _ _ _ h; exact ⟨rfl, rfl, rfl⟩)
    | (obtain ⟨_, _, _, rfl, rfl⟩ := parseReadPins_some _ _ _ h; exact ⟨rfl, rfl, rfl⟩)

end Sys2Proof
end

