-- ==== Sys2Proof/Laws/State.lean ====
section
/-! SUPPORT. One lemma for each field and each update of the state: what an update leaves, and what it writes. -/

namespace Sys2Proof.Machine

/-! ## Updates of a head -/

@[simp] theorem State.modHead_pending (s : State) (h : Head) (f : HeadUnit → HeadUnit) :
    (s.modHead h f).pending = s.pending :=
  by cases h <;> rfl
@[simp] theorem State.modHead_map (s : State) (h : Head) (f : HeadUnit → HeadUnit) :
    (s.modHead h f).map = s.map :=
  by cases h <;> rfl
@[simp] theorem State.modHead_library (s : State) (h : Head) (f : HeadUnit → HeadUnit) :
    (s.modHead h f).library = s.library :=
  by cases h <;> rfl
@[simp] theorem State.modHead_keep (s : State) (h : Head) (f : HeadUnit → HeadUnit) :
    (s.modHead h f).keep = s.keep :=
  by cases h <;> rfl
@[simp] theorem State.modHead_records (s : State) (h : Head) (f : HeadUnit → HeadUnit) :
    (s.modHead h f).records = s.records :=
  by cases h <;> rfl
@[simp] theorem State.modHead_verdicts (s : State) (h : Head) (f : HeadUnit → HeadUnit) :
    (s.modHead h f).verdicts = s.verdicts :=
  by cases h <;> rfl
@[simp] theorem State.modHead_slot0 (s : State) (h : Head) (f : HeadUnit → HeadUnit) :
    (s.modHead h f).slot0 = s.slot0 :=
  by cases h <;> rfl
@[simp] theorem State.modHead_slot1 (s : State) (h : Head) (f : HeadUnit → HeadUnit) :
    (s.modHead h f).slot1 = s.slot1 :=
  by cases h <;> rfl
@[simp] theorem State.modHead_cell (s : State) (h : Head) (f : HeadUnit → HeadUnit) :
    (s.modHead h f).cell = s.cell :=
  by cases h <;> rfl
@[simp] theorem State.modHead_portA (s : State) (h : Head) (f : HeadUnit → HeadUnit) :
    (s.modHead h f).portA = s.portA :=
  by cases h <;> rfl
@[simp] theorem State.modHead_portB (s : State) (h : Head) (f : HeadUnit → HeadUnit) :
    (s.modHead h f).portB = s.portB :=
  by cases h <;> rfl
@[simp] theorem State.modHead_blockSize (s : State) (h : Head) (f : HeadUnit → HeadUnit) :
    (s.modHead h f).blockSize = s.blockSize :=
  by cases h <;> rfl
@[simp] theorem State.modHead_site (s : State) (h : Head) (f : HeadUnit → HeadUnit) (i : Nat) :
    (s.modHead h f).site i = s.site i :=
  by cases h <;> rfl
@[simp] theorem State.modHead_pin (s : State) (h : Head) (f : HeadUnit → HeadUnit) (i : Nat) :
    (s.modHead h f).pin i = s.pin i :=
  by cases h <;> rfl
@[simp] theorem State.modHead_locked (s : State) (h : Head) (f : HeadUnit → HeadUnit) (i : Nat) :
    (s.modHead h f).locked i = s.locked i :=
  by cases h <;> rfl
@[simp] theorem State.modHead_record (s : State) (h : Head) (f : HeadUnit → HeadUnit) (i : Nat) :
    (s.modHead h f).record i = s.record i :=
  by cases h <;> rfl
@[simp] theorem State.modHead_verdict (s : State) (h : Head) (f : HeadUnit → HeadUnit) (i : Nat) :
    (s.modHead h f).verdict i = s.verdict i :=
  by cases h <;> rfl
@[simp] theorem State.modHead_slot (s : State) (h : Head) (f : HeadUnit → HeadUnit) (i : Nat) :
    (s.modHead h f).slot i = s.slot i :=
  by cases h <;> rfl
@[simp] theorem State.modHead_port (s : State) (h : Head) (f : HeadUnit → HeadUnit) (p : Port) :
    (s.modHead h f).port p = s.port p :=
  by cases h <;> cases p <;> rfl
@[simp] theorem State.modHead_head_other (s : State) (h : Head) (f : HeadUnit → HeadUnit) :
    (s.modHead h f).head (otherHead h) = s.head (otherHead h) :=
  by
  cases h <;> rfl

@[simp] theorem State.setEngine_pending (s : State) (h : Head) (e : Engine) :
    (s.setEngine h e).pending = s.pending :=
  by cases h <;> rfl
@[simp] theorem State.setEngine_map (s : State) (h : Head) (e : Engine) :
    (s.setEngine h e).map = s.map :=
  by cases h <;> rfl
@[simp] theorem State.setEngine_library (s : State) (h : Head) (e : Engine) :
    (s.setEngine h e).library = s.library :=
  by cases h <;> rfl
@[simp] theorem State.setEngine_keep (s : State) (h : Head) (e : Engine) :
    (s.setEngine h e).keep = s.keep :=
  by cases h <;> rfl
@[simp] theorem State.setEngine_records (s : State) (h : Head) (e : Engine) :
    (s.setEngine h e).records = s.records :=
  by cases h <;> rfl
@[simp] theorem State.setEngine_verdicts (s : State) (h : Head) (e : Engine) :
    (s.setEngine h e).verdicts = s.verdicts :=
  by cases h <;> rfl
@[simp] theorem State.setEngine_slot0 (s : State) (h : Head) (e : Engine) :
    (s.setEngine h e).slot0 = s.slot0 :=
  by cases h <;> rfl
@[simp] theorem State.setEngine_slot1 (s : State) (h : Head) (e : Engine) :
    (s.setEngine h e).slot1 = s.slot1 :=
  by cases h <;> rfl
@[simp] theorem State.setEngine_cell (s : State) (h : Head) (e : Engine) :
    (s.setEngine h e).cell = s.cell :=
  by cases h <;> rfl
@[simp] theorem State.setEngine_portA (s : State) (h : Head) (e : Engine) :
    (s.setEngine h e).portA = s.portA :=
  by cases h <;> rfl
@[simp] theorem State.setEngine_portB (s : State) (h : Head) (e : Engine) :
    (s.setEngine h e).portB = s.portB :=
  by cases h <;> rfl
@[simp] theorem State.setEngine_blockSize (s : State) (h : Head) (e : Engine) :
    (s.setEngine h e).blockSize = s.blockSize :=
  by cases h <;> rfl
@[simp] theorem State.setEngine_site (s : State) (h : Head) (e : Engine) (i : Nat) :
    (s.setEngine h e).site i = s.site i :=
  by cases h <;> rfl
@[simp] theorem State.setEngine_pin (s : State) (h : Head) (e : Engine) (i : Nat) :
    (s.setEngine h e).pin i = s.pin i :=
  by cases h <;> rfl
@[simp] theorem State.setEngine_locked (s : State) (h : Head) (e : Engine) (i : Nat) :
    (s.setEngine h e).locked i = s.locked i :=
  by cases h <;> rfl
@[simp] theorem State.setEngine_record (s : State) (h : Head) (e : Engine) (i : Nat) :
    (s.setEngine h e).record i = s.record i :=
  by cases h <;> rfl
@[simp] theorem State.setEngine_verdict (s : State) (h : Head) (e : Engine) (i : Nat) :
    (s.setEngine h e).verdict i = s.verdict i :=
  by cases h <;> rfl
@[simp] theorem State.setEngine_slot (s : State) (h : Head) (e : Engine) (i : Nat) :
    (s.setEngine h e).slot i = s.slot i :=
  by cases h <;> rfl
@[simp] theorem State.setEngine_port (s : State) (h : Head) (e : Engine) (p : Port) :
    (s.setEngine h e).port p = s.port p :=
  by cases h <;> cases p <;> rfl
@[simp] theorem State.setEngine_head_other (s : State) (h : Head) (e : Engine) :
    (s.setEngine h e).head (otherHead h) = s.head (otherHead h) :=
  by
  cases h <;> rfl

@[simp] theorem State.setClaim_pending (s : State) (h : Head) (c : Option Claim) :
    (s.setClaim h c).pending = s.pending :=
  by cases h <;> rfl
@[simp] theorem State.setClaim_map (s : State) (h : Head) (c : Option Claim) :
    (s.setClaim h c).map = s.map :=
  by cases h <;> rfl
@[simp] theorem State.setClaim_library (s : State) (h : Head) (c : Option Claim) :
    (s.setClaim h c).library = s.library :=
  by cases h <;> rfl
@[simp] theorem State.setClaim_keep (s : State) (h : Head) (c : Option Claim) :
    (s.setClaim h c).keep = s.keep :=
  by cases h <;> rfl
@[simp] theorem State.setClaim_records (s : State) (h : Head) (c : Option Claim) :
    (s.setClaim h c).records = s.records :=
  by cases h <;> rfl
@[simp] theorem State.setClaim_verdicts (s : State) (h : Head) (c : Option Claim) :
    (s.setClaim h c).verdicts = s.verdicts :=
  by cases h <;> rfl
@[simp] theorem State.setClaim_slot0 (s : State) (h : Head) (c : Option Claim) :
    (s.setClaim h c).slot0 = s.slot0 :=
  by cases h <;> rfl
@[simp] theorem State.setClaim_slot1 (s : State) (h : Head) (c : Option Claim) :
    (s.setClaim h c).slot1 = s.slot1 :=
  by cases h <;> rfl
@[simp] theorem State.setClaim_cell (s : State) (h : Head) (c : Option Claim) :
    (s.setClaim h c).cell = s.cell :=
  by cases h <;> rfl
@[simp] theorem State.setClaim_portA (s : State) (h : Head) (c : Option Claim) :
    (s.setClaim h c).portA = s.portA :=
  by cases h <;> rfl
@[simp] theorem State.setClaim_portB (s : State) (h : Head) (c : Option Claim) :
    (s.setClaim h c).portB = s.portB :=
  by cases h <;> rfl
@[simp] theorem State.setClaim_blockSize (s : State) (h : Head) (c : Option Claim) :
    (s.setClaim h c).blockSize = s.blockSize :=
  by cases h <;> rfl
@[simp] theorem State.setClaim_site (s : State) (h : Head) (c : Option Claim) (i : Nat) :
    (s.setClaim h c).site i = s.site i :=
  by cases h <;> rfl
@[simp] theorem State.setClaim_pin (s : State) (h : Head) (c : Option Claim) (i : Nat) :
    (s.setClaim h c).pin i = s.pin i :=
  by cases h <;> rfl
@[simp] theorem State.setClaim_locked (s : State) (h : Head) (c : Option Claim) (i : Nat) :
    (s.setClaim h c).locked i = s.locked i :=
  by cases h <;> rfl
@[simp] theorem State.setClaim_record (s : State) (h : Head) (c : Option Claim) (i : Nat) :
    (s.setClaim h c).record i = s.record i :=
  by cases h <;> rfl
@[simp] theorem State.setClaim_verdict (s : State) (h : Head) (c : Option Claim) (i : Nat) :
    (s.setClaim h c).verdict i = s.verdict i :=
  by cases h <;> rfl
@[simp] theorem State.setClaim_slot (s : State) (h : Head) (c : Option Claim) (i : Nat) :
    (s.setClaim h c).slot i = s.slot i :=
  by cases h <;> rfl
@[simp] theorem State.setClaim_port (s : State) (h : Head) (c : Option Claim) (p : Port) :
    (s.setClaim h c).port p = s.port p :=
  by cases h <;> cases p <;> rfl
@[simp] theorem State.setClaim_head_other (s : State) (h : Head) (c : Option Claim) :
    (s.setClaim h c).head (otherHead h) = s.head (otherHead h) :=
  by
  cases h <;> rfl

@[simp] theorem State.setWaiting_pending (s : State) (h : Head) (w : Option Wait) :
    (s.setWaiting h w).pending = s.pending :=
  by cases h <;> rfl
@[simp] theorem State.setWaiting_map (s : State) (h : Head) (w : Option Wait) :
    (s.setWaiting h w).map = s.map :=
  by cases h <;> rfl
@[simp] theorem State.setWaiting_library (s : State) (h : Head) (w : Option Wait) :
    (s.setWaiting h w).library = s.library :=
  by cases h <;> rfl
@[simp] theorem State.setWaiting_keep (s : State) (h : Head) (w : Option Wait) :
    (s.setWaiting h w).keep = s.keep :=
  by cases h <;> rfl
@[simp] theorem State.setWaiting_records (s : State) (h : Head) (w : Option Wait) :
    (s.setWaiting h w).records = s.records :=
  by cases h <;> rfl
@[simp] theorem State.setWaiting_verdicts (s : State) (h : Head) (w : Option Wait) :
    (s.setWaiting h w).verdicts = s.verdicts :=
  by cases h <;> rfl
@[simp] theorem State.setWaiting_slot0 (s : State) (h : Head) (w : Option Wait) :
    (s.setWaiting h w).slot0 = s.slot0 :=
  by cases h <;> rfl
@[simp] theorem State.setWaiting_slot1 (s : State) (h : Head) (w : Option Wait) :
    (s.setWaiting h w).slot1 = s.slot1 :=
  by cases h <;> rfl
@[simp] theorem State.setWaiting_cell (s : State) (h : Head) (w : Option Wait) :
    (s.setWaiting h w).cell = s.cell :=
  by cases h <;> rfl
@[simp] theorem State.setWaiting_portA (s : State) (h : Head) (w : Option Wait) :
    (s.setWaiting h w).portA = s.portA :=
  by cases h <;> rfl
@[simp] theorem State.setWaiting_portB (s : State) (h : Head) (w : Option Wait) :
    (s.setWaiting h w).portB = s.portB :=
  by cases h <;> rfl
@[simp] theorem State.setWaiting_blockSize (s : State) (h : Head) (w : Option Wait) :
    (s.setWaiting h w).blockSize = s.blockSize :=
  by cases h <;> rfl
@[simp] theorem State.setWaiting_site (s : State) (h : Head) (w : Option Wait) (i : Nat) :
    (s.setWaiting h w).site i = s.site i :=
  by cases h <;> rfl
@[simp] theorem State.setWaiting_pin (s : State) (h : Head) (w : Option Wait) (i : Nat) :
    (s.setWaiting h w).pin i = s.pin i :=
  by cases h <;> rfl
@[simp] theorem State.setWaiting_locked (s : State) (h : Head) (w : Option Wait) (i : Nat) :
    (s.setWaiting h w).locked i = s.locked i :=
  by cases h <;> rfl
@[simp] theorem State.setWaiting_record (s : State) (h : Head) (w : Option Wait) (i : Nat) :
    (s.setWaiting h w).record i = s.record i :=
  by cases h <;> rfl
@[simp] theorem State.setWaiting_verdict (s : State) (h : Head) (w : Option Wait) (i : Nat) :
    (s.setWaiting h w).verdict i = s.verdict i :=
  by cases h <;> rfl
@[simp] theorem State.setWaiting_slot (s : State) (h : Head) (w : Option Wait) (i : Nat) :
    (s.setWaiting h w).slot i = s.slot i :=
  by cases h <;> rfl
@[simp] theorem State.setWaiting_port (s : State) (h : Head) (w : Option Wait) (p : Port) :
    (s.setWaiting h w).port p = s.port p :=
  by cases h <;> cases p <;> rfl
@[simp] theorem State.setWaiting_head_other (s : State) (h : Head) (w : Option Wait) :
    (s.setWaiting h w).head (otherHead h) = s.head (otherHead h) :=
  by
  cases h <;> rfl

@[simp] theorem State.modLines_pending (s : State) (h : Head) (f : Lines → Lines) :
    (s.modLines h f).pending = s.pending :=
  by cases h <;> rfl
@[simp] theorem State.modLines_map (s : State) (h : Head) (f : Lines → Lines) :
    (s.modLines h f).map = s.map :=
  by cases h <;> rfl
@[simp] theorem State.modLines_library (s : State) (h : Head) (f : Lines → Lines) :
    (s.modLines h f).library = s.library :=
  by cases h <;> rfl
@[simp] theorem State.modLines_keep (s : State) (h : Head) (f : Lines → Lines) :
    (s.modLines h f).keep = s.keep :=
  by cases h <;> rfl
@[simp] theorem State.modLines_records (s : State) (h : Head) (f : Lines → Lines) :
    (s.modLines h f).records = s.records :=
  by cases h <;> rfl
@[simp] theorem State.modLines_verdicts (s : State) (h : Head) (f : Lines → Lines) :
    (s.modLines h f).verdicts = s.verdicts :=
  by cases h <;> rfl
@[simp] theorem State.modLines_slot0 (s : State) (h : Head) (f : Lines → Lines) :
    (s.modLines h f).slot0 = s.slot0 :=
  by cases h <;> rfl
@[simp] theorem State.modLines_slot1 (s : State) (h : Head) (f : Lines → Lines) :
    (s.modLines h f).slot1 = s.slot1 :=
  by cases h <;> rfl
@[simp] theorem State.modLines_cell (s : State) (h : Head) (f : Lines → Lines) :
    (s.modLines h f).cell = s.cell :=
  by cases h <;> rfl
@[simp] theorem State.modLines_portA (s : State) (h : Head) (f : Lines → Lines) :
    (s.modLines h f).portA = s.portA :=
  by cases h <;> rfl
@[simp] theorem State.modLines_portB (s : State) (h : Head) (f : Lines → Lines) :
    (s.modLines h f).portB = s.portB :=
  by cases h <;> rfl
@[simp] theorem State.modLines_blockSize (s : State) (h : Head) (f : Lines → Lines) :
    (s.modLines h f).blockSize = s.blockSize :=
  by cases h <;> rfl
@[simp] theorem State.modLines_site (s : State) (h : Head) (f : Lines → Lines) (i : Nat) :
    (s.modLines h f).site i = s.site i :=
  by cases h <;> rfl
@[simp] theorem State.modLines_pin (s : State) (h : Head) (f : Lines → Lines) (i : Nat) :
    (s.modLines h f).pin i = s.pin i :=
  by cases h <;> rfl
@[simp] theorem State.modLines_locked (s : State) (h : Head) (f : Lines → Lines) (i : Nat) :
    (s.modLines h f).locked i = s.locked i :=
  by cases h <;> rfl
@[simp] theorem State.modLines_record (s : State) (h : Head) (f : Lines → Lines) (i : Nat) :
    (s.modLines h f).record i = s.record i :=
  by cases h <;> rfl
@[simp] theorem State.modLines_verdict (s : State) (h : Head) (f : Lines → Lines) (i : Nat) :
    (s.modLines h f).verdict i = s.verdict i :=
  by cases h <;> rfl
@[simp] theorem State.modLines_slot (s : State) (h : Head) (f : Lines → Lines) (i : Nat) :
    (s.modLines h f).slot i = s.slot i :=
  by cases h <;> rfl
@[simp] theorem State.modLines_port (s : State) (h : Head) (f : Lines → Lines) (p : Port) :
    (s.modLines h f).port p = s.port p :=
  by cases h <;> cases p <;> rfl
@[simp] theorem State.modLines_head_other (s : State) (h : Head) (f : Lines → Lines) :
    (s.modLines h f).head (otherHead h) = s.head (otherHead h) :=
  by
  cases h <;> rfl

@[simp] theorem State.setSilence_pending (s : State) (h : Head) (t : Option Nat) :
    (s.setSilence h t).pending = s.pending :=
  by cases h <;> rfl
@[simp] theorem State.setSilence_map (s : State) (h : Head) (t : Option Nat) :
    (s.setSilence h t).map = s.map :=
  by cases h <;> rfl
@[simp] theorem State.setSilence_library (s : State) (h : Head) (t : Option Nat) :
    (s.setSilence h t).library = s.library :=
  by cases h <;> rfl
@[simp] theorem State.setSilence_keep (s : State) (h : Head) (t : Option Nat) :
    (s.setSilence h t).keep = s.keep :=
  by cases h <;> rfl
@[simp] theorem State.setSilence_records (s : State) (h : Head) (t : Option Nat) :
    (s.setSilence h t).records = s.records :=
  by cases h <;> rfl
@[simp] theorem State.setSilence_verdicts (s : State) (h : Head) (t : Option Nat) :
    (s.setSilence h t).verdicts = s.verdicts :=
  by cases h <;> rfl
@[simp] theorem State.setSilence_slot0 (s : State) (h : Head) (t : Option Nat) :
    (s.setSilence h t).slot0 = s.slot0 :=
  by cases h <;> rfl
@[simp] theorem State.setSilence_slot1 (s : State) (h : Head) (t : Option Nat) :
    (s.setSilence h t).slot1 = s.slot1 :=
  by cases h <;> rfl
@[simp] theorem State.setSilence_cell (s : State) (h : Head) (t : Option Nat) :
    (s.setSilence h t).cell = s.cell :=
  by cases h <;> rfl
@[simp] theorem State.setSilence_portA (s : State) (h : Head) (t : Option Nat) :
    (s.setSilence h t).portA = s.portA :=
  by cases h <;> rfl
@[simp] theorem State.setSilence_portB (s : State) (h : Head) (t : Option Nat) :
    (s.setSilence h t).portB = s.portB :=
  by cases h <;> rfl
@[simp] theorem State.setSilence_blockSize (s : State) (h : Head) (t : Option Nat) :
    (s.setSilence h t).blockSize = s.blockSize :=
  by cases h <;> rfl
@[simp] theorem State.setSilence_site (s : State) (h : Head) (t : Option Nat) (i : Nat) :
    (s.setSilence h t).site i = s.site i :=
  by cases h <;> rfl
@[simp] theorem State.setSilence_pin (s : State) (h : Head) (t : Option Nat) (i : Nat) :
    (s.setSilence h t).pin i = s.pin i :=
  by cases h <;> rfl
@[simp] theorem State.setSilence_locked (s : State) (h : Head) (t : Option Nat) (i : Nat) :
    (s.setSilence h t).locked i = s.locked i :=
  by cases h <;> rfl
@[simp] theorem State.setSilence_record (s : State) (h : Head) (t : Option Nat) (i : Nat) :
    (s.setSilence h t).record i = s.record i :=
  by cases h <;> rfl
@[simp] theorem State.setSilence_verdict (s : State) (h : Head) (t : Option Nat) (i : Nat) :
    (s.setSilence h t).verdict i = s.verdict i :=
  by cases h <;> rfl
@[simp] theorem State.setSilence_slot (s : State) (h : Head) (t : Option Nat) (i : Nat) :
    (s.setSilence h t).slot i = s.slot i :=
  by cases h <;> rfl
@[simp] theorem State.setSilence_port (s : State) (h : Head) (t : Option Nat) (p : Port) :
    (s.setSilence h t).port p = s.port p :=
  by cases h <;> cases p <;> rfl
@[simp] theorem State.setSilence_head_other (s : State) (h : Head) (t : Option Nat) :
    (s.setSilence h t).head (otherHead h) = s.head (otherHead h) :=
  by
  cases h <;> rfl

@[simp] theorem State.linkIdle_pending (s : State) (h : Head) :
    (s.linkIdle h).pending = s.pending :=
  by cases h <;> rfl
@[simp] theorem State.linkIdle_map (s : State) (h : Head) :
    (s.linkIdle h).map = s.map :=
  by cases h <;> rfl
@[simp] theorem State.linkIdle_library (s : State) (h : Head) :
    (s.linkIdle h).library = s.library :=
  by cases h <;> rfl
@[simp] theorem State.linkIdle_keep (s : State) (h : Head) :
    (s.linkIdle h).keep = s.keep :=
  by cases h <;> rfl
@[simp] theorem State.linkIdle_records (s : State) (h : Head) :
    (s.linkIdle h).records = s.records :=
  by cases h <;> rfl
@[simp] theorem State.linkIdle_verdicts (s : State) (h : Head) :
    (s.linkIdle h).verdicts = s.verdicts :=
  by cases h <;> rfl
@[simp] theorem State.linkIdle_slot0 (s : State) (h : Head) :
    (s.linkIdle h).slot0 = s.slot0 :=
  by cases h <;> rfl
@[simp] theorem State.linkIdle_slot1 (s : State) (h : Head) :
    (s.linkIdle h).slot1 = s.slot1 :=
  by cases h <;> rfl
@[simp] theorem State.linkIdle_cell (s : State) (h : Head) :
    (s.linkIdle h).cell = s.cell :=
  by cases h <;> rfl
@[simp] theorem State.linkIdle_portA (s : State) (h : Head) :
    (s.linkIdle h).portA = s.portA :=
  by cases h <;> rfl
@[simp] theorem State.linkIdle_portB (s : State) (h : Head) :
    (s.linkIdle h).portB = s.portB :=
  by cases h <;> rfl
@[simp] theorem State.linkIdle_blockSize (s : State) (h : Head) :
    (s.linkIdle h).blockSize = s.blockSize :=
  by cases h <;> rfl
@[simp] theorem State.linkIdle_site (s : State) (h : Head) (i : Nat) :
    (s.linkIdle h).site i = s.site i :=
  by cases h <;> rfl
@[simp] theorem State.linkIdle_pin (s : State) (h : Head) (i : Nat) :
    (s.linkIdle h).pin i = s.pin i :=
  by cases h <;> rfl
@[simp] theorem State.linkIdle_locked (s : State) (h : Head) (i : Nat) :
    (s.linkIdle h).locked i = s.locked i :=
  by cases h <;> rfl
@[simp] theorem State.linkIdle_record (s : State) (h : Head) (i : Nat) :
    (s.linkIdle h).record i = s.record i :=
  by cases h <;> rfl
@[simp] theorem State.linkIdle_verdict (s : State) (h : Head) (i : Nat) :
    (s.linkIdle h).verdict i = s.verdict i :=
  by cases h <;> rfl
@[simp] theorem State.linkIdle_slot (s : State) (h : Head) (i : Nat) :
    (s.linkIdle h).slot i = s.slot i :=
  by cases h <;> rfl
@[simp] theorem State.linkIdle_port (s : State) (h : Head) (p : Port) :
    (s.linkIdle h).port p = s.port p :=
  by cases h <;> cases p <;> rfl
@[simp] theorem State.linkIdle_head_other (s : State) (h : Head) :
    (s.linkIdle h).head (otherHead h) = s.head (otherHead h) :=
  by
  cases h <;> rfl

@[simp] theorem State.assertStop_pending (s : State) (h : Head) :
    (s.assertStop h).pending = s.pending :=
  by cases h <;> rfl
@[simp] theorem State.assertStop_map (s : State) (h : Head) : (s.assertStop h).map = s.map := by cases h <;> rfl
@[simp] theorem State.assertStop_library (s : State) (h : Head) :
    (s.assertStop h).library = s.library :=
  by cases h <;> rfl
@[simp] theorem State.assertStop_keep (s : State) (h : Head) : (s.assertStop h).keep = s.keep := by cases h <;> rfl
@[simp] theorem State.assertStop_records (s : State) (h : Head) :
    (s.assertStop h).records = s.records :=
  by cases h <;> rfl
@[simp] theorem State.assertStop_verdicts (s : State) (h : Head) :
    (s.assertStop h).verdicts = s.verdicts :=
  by cases h <;> rfl
@[simp] theorem State.assertStop_slot0 (s : State) (h : Head) : (s.assertStop h).slot0 = s.slot0 := by cases h <;> rfl
@[simp] theorem State.assertStop_slot1 (s : State) (h : Head) : (s.assertStop h).slot1 = s.slot1 := by cases h <;> rfl
@[simp] theorem State.assertStop_cell (s : State) (h : Head) : (s.assertStop h).cell = s.cell := by cases h <;> rfl
@[simp] theorem State.assertStop_portA (s : State) (h : Head) : (s.assertStop h).portA = s.portA := by cases h <;> rfl
@[simp] theorem State.assertStop_portB (s : State) (h : Head) : (s.assertStop h).portB = s.portB := by cases h <;> rfl
@[simp] theorem State.assertStop_blockSize (s : State) (h : Head) :
    (s.assertStop h).blockSize = s.blockSize :=
  by cases h <;> rfl
@[simp] theorem State.assertStop_site (s : State) (h : Head) (i : Nat) :
    (s.assertStop h).site i = s.site i :=
  by cases h <;> rfl
@[simp] theorem State.assertStop_pin (s : State) (h : Head) (i : Nat) :
    (s.assertStop h).pin i = s.pin i :=
  by cases h <;> rfl
@[simp] theorem State.assertStop_locked (s : State) (h : Head) (i : Nat) :
    (s.assertStop h).locked i = s.locked i :=
  by cases h <;> rfl
@[simp] theorem State.assertStop_record (s : State) (h : Head) (i : Nat) :
    (s.assertStop h).record i = s.record i :=
  by cases h <;> rfl
@[simp] theorem State.assertStop_verdict (s : State) (h : Head) (i : Nat) :
    (s.assertStop h).verdict i = s.verdict i :=
  by cases h <;> rfl
@[simp] theorem State.assertStop_slot (s : State) (h : Head) (i : Nat) :
    (s.assertStop h).slot i = s.slot i :=
  by cases h <;> rfl
@[simp] theorem State.assertStop_port (s : State) (h : Head) (p : Port) :
    (s.assertStop h).port p = s.port p :=
  by cases h <;> cases p <;> rfl
@[simp] theorem State.assertStop_head_other (s : State) (h : Head) :
    (s.assertStop h).head (otherHead h) = s.head (otherHead h) :=
  by
  cases h <;> rfl

@[simp] theorem State.mark_pending (s : State) (h : Head) (m : MarkSource) :
    (s.mark h m).pending = s.pending :=
  by cases h <;> rfl
@[simp] theorem State.mark_map (s : State) (h : Head) (m : MarkSource) : (s.mark h m).map = s.map := by cases h <;> rfl
@[simp] theorem State.mark_library (s : State) (h : Head) (m : MarkSource) :
    (s.mark h m).library = s.library :=
  by cases h <;> rfl
@[simp] theorem State.mark_keep (s : State) (h : Head) (m : MarkSource) :
    (s.mark h m).keep = s.keep :=
  by cases h <;> rfl
@[simp] theorem State.mark_records (s : State) (h : Head) (m : MarkSource) :
    (s.mark h m).records = s.records :=
  by cases h <;> rfl
@[simp] theorem State.mark_verdicts (s : State) (h : Head) (m : MarkSource) :
    (s.mark h m).verdicts = s.verdicts :=
  by cases h <;> rfl
@[simp] theorem State.mark_slot0 (s : State) (h : Head) (m : MarkSource) :
    (s.mark h m).slot0 = s.slot0 :=
  by cases h <;> rfl
@[simp] theorem State.mark_slot1 (s : State) (h : Head) (m : MarkSource) :
    (s.mark h m).slot1 = s.slot1 :=
  by cases h <;> rfl
@[simp] theorem State.mark_cell (s : State) (h : Head) (m : MarkSource) :
    (s.mark h m).cell = s.cell :=
  by cases h <;> rfl
@[simp] theorem State.mark_portA (s : State) (h : Head) (m : MarkSource) :
    (s.mark h m).portA = s.portA :=
  by cases h <;> rfl
@[simp] theorem State.mark_portB (s : State) (h : Head) (m : MarkSource) :
    (s.mark h m).portB = s.portB :=
  by cases h <;> rfl
@[simp] theorem State.mark_blockSize (s : State) (h : Head) (m : MarkSource) :
    (s.mark h m).blockSize = s.blockSize :=
  by cases h <;> rfl
@[simp] theorem State.mark_site (s : State) (h : Head) (m : MarkSource) (i : Nat) :
    (s.mark h m).site i = s.site i :=
  by cases h <;> rfl
@[simp] theorem State.mark_pin (s : State) (h : Head) (m : MarkSource) (i : Nat) :
    (s.mark h m).pin i = s.pin i :=
  by cases h <;> rfl
@[simp] theorem State.mark_locked (s : State) (h : Head) (m : MarkSource) (i : Nat) :
    (s.mark h m).locked i = s.locked i :=
  by cases h <;> rfl
@[simp] theorem State.mark_record (s : State) (h : Head) (m : MarkSource) (i : Nat) :
    (s.mark h m).record i = s.record i :=
  by cases h <;> rfl
@[simp] theorem State.mark_verdict (s : State) (h : Head) (m : MarkSource) (i : Nat) :
    (s.mark h m).verdict i = s.verdict i :=
  by cases h <;> rfl
@[simp] theorem State.mark_slot (s : State) (h : Head) (m : MarkSource) (i : Nat) :
    (s.mark h m).slot i = s.slot i :=
  by cases h <;> rfl
@[simp] theorem State.mark_port (s : State) (h : Head) (m : MarkSource) (p : Port) :
    (s.mark h m).port p = s.port p :=
  by cases h <;> cases p <;> rfl
@[simp] theorem State.mark_head_other (s : State) (h : Head) (m : MarkSource) :
    (s.mark h m).head (otherHead h) = s.head (otherHead h) :=
  by
  cases h <;> rfl

@[simp] theorem State.markDue_pending (s : State) (h : Head) : (s.markDue h).pending = s.pending := by cases h <;> rfl
@[simp] theorem State.markDue_map (s : State) (h : Head) : (s.markDue h).map = s.map := by cases h <;> rfl
@[simp] theorem State.markDue_library (s : State) (h : Head) : (s.markDue h).library = s.library := by cases h <;> rfl
@[simp] theorem State.markDue_keep (s : State) (h : Head) : (s.markDue h).keep = s.keep := by cases h <;> rfl
@[simp] theorem State.markDue_records (s : State) (h : Head) : (s.markDue h).records = s.records := by cases h <;> rfl
@[simp] theorem State.markDue_verdicts (s : State) (h : Head) :
    (s.markDue h).verdicts = s.verdicts :=
  by cases h <;> rfl
@[simp] theorem State.markDue_slot0 (s : State) (h : Head) : (s.markDue h).slot0 = s.slot0 := by cases h <;> rfl
@[simp] theorem State.markDue_slot1 (s : State) (h : Head) : (s.markDue h).slot1 = s.slot1 := by cases h <;> rfl
@[simp] theorem State.markDue_cell (s : State) (h : Head) : (s.markDue h).cell = s.cell := by cases h <;> rfl
@[simp] theorem State.markDue_portA (s : State) (h : Head) : (s.markDue h).portA = s.portA := by cases h <;> rfl
@[simp] theorem State.markDue_portB (s : State) (h : Head) : (s.markDue h).portB = s.portB := by cases h <;> rfl
@[simp] theorem State.markDue_blockSize (s : State) (h : Head) :
    (s.markDue h).blockSize = s.blockSize :=
  by cases h <;> rfl
@[simp] theorem State.markDue_site (s : State) (h : Head) (i : Nat) :
    (s.markDue h).site i = s.site i :=
  by cases h <;> rfl
@[simp] theorem State.markDue_pin (s : State) (h : Head) (j : Nat) : (s.markDue h).pin j = s.pin j := by cases h <;> rfl
@[simp] theorem State.markDue_locked (s : State) (h : Head) (i : Nat) :
    (s.markDue h).locked i = s.locked i :=
  by cases h <;> rfl
@[simp] theorem State.markDue_record (s : State) (h : Head) (i : Nat) :
    (s.markDue h).record i = s.record i :=
  by cases h <;> rfl
@[simp] theorem State.markDue_verdict (s : State) (h : Head) (i : Nat) :
    (s.markDue h).verdict i = s.verdict i :=
  by cases h <;> rfl
@[simp] theorem State.markDue_slot (s : State) (h : Head) (i : Nat) :
    (s.markDue h).slot i = s.slot i :=
  by cases h <;> rfl
@[simp] theorem State.markDue_port (s : State) (h : Head) (p : Port) :
    (s.markDue h).port p = s.port p :=
  by cases h <;> cases p <;> rfl
@[simp] theorem State.markDue_head_other (s : State) (h : Head) :
    (s.markDue h).head (otherHead h) = s.head (otherHead h) :=
  by
  cases h <;> rfl

@[simp] theorem State.toIdle_pending (s : State) (h : Head) : (s.toIdle h).pending = s.pending := by cases h <;> rfl
@[simp] theorem State.toIdle_map (s : State) (h : Head) : (s.toIdle h).map = s.map := by cases h <;> rfl
@[simp] theorem State.toIdle_library (s : State) (h : Head) : (s.toIdle h).library = s.library := by cases h <;> rfl
@[simp] theorem State.toIdle_keep (s : State) (h : Head) : (s.toIdle h).keep = s.keep := by cases h <;> rfl
@[simp] theorem State.toIdle_records (s : State) (h : Head) : (s.toIdle h).records = s.records := by cases h <;> rfl
@[simp] theorem State.toIdle_verdicts (s : State) (h : Head) : (s.toIdle h).verdicts = s.verdicts := by cases h <;> rfl
@[simp] theorem State.toIdle_slot0 (s : State) (h : Head) : (s.toIdle h).slot0 = s.slot0 := by cases h <;> rfl
@[simp] theorem State.toIdle_slot1 (s : State) (h : Head) : (s.toIdle h).slot1 = s.slot1 := by cases h <;> rfl
@[simp] theorem State.toIdle_cell (s : State) (h : Head) : (s.toIdle h).cell = s.cell := by cases h <;> rfl
@[simp] theorem State.toIdle_portA (s : State) (h : Head) : (s.toIdle h).portA = s.portA := by cases h <;> rfl
@[simp] theorem State.toIdle_portB (s : State) (h : Head) : (s.toIdle h).portB = s.portB := by cases h <;> rfl
@[simp] theorem State.toIdle_blockSize (s : State) (h : Head) :
    (s.toIdle h).blockSize = s.blockSize :=
  by cases h <;> rfl
@[simp] theorem State.toIdle_site (s : State) (h : Head) (i : Nat) :
    (s.toIdle h).site i = s.site i :=
  by cases h <;> rfl
@[simp] theorem State.toIdle_pin (s : State) (h : Head) (j : Nat) : (s.toIdle h).pin j = s.pin j := by cases h <;> rfl
@[simp] theorem State.toIdle_locked (s : State) (h : Head) (i : Nat) :
    (s.toIdle h).locked i = s.locked i :=
  by cases h <;> rfl
@[simp] theorem State.toIdle_record (s : State) (h : Head) (i : Nat) :
    (s.toIdle h).record i = s.record i :=
  by cases h <;> rfl
@[simp] theorem State.toIdle_verdict (s : State) (h : Head) (i : Nat) :
    (s.toIdle h).verdict i = s.verdict i :=
  by cases h <;> rfl
@[simp] theorem State.toIdle_slot (s : State) (h : Head) (i : Nat) :
    (s.toIdle h).slot i = s.slot i :=
  by cases h <;> rfl
@[simp] theorem State.toIdle_port (s : State) (h : Head) (p : Port) :
    (s.toIdle h).port p = s.port p :=
  by cases h <;> cases p <;> rfl
@[simp] theorem State.toIdle_head_other (s : State) (h : Head) :
    (s.toIdle h).head (otherHead h) = s.head (otherHead h) :=
  by
  cases h <;> rfl

@[simp] theorem State.releaseStop_pending (s : State) (h : Head) :
    (s.releaseStop h).pending = s.pending :=
  by cases h <;> rfl
@[simp] theorem State.releaseStop_map (s : State) (h : Head) : (s.releaseStop h).map = s.map := by cases h <;> rfl
@[simp] theorem State.releaseStop_library (s : State) (h : Head) :
    (s.releaseStop h).library = s.library :=
  by cases h <;> rfl
@[simp] theorem State.releaseStop_keep (s : State) (h : Head) : (s.releaseStop h).keep = s.keep := by cases h <;> rfl
@[simp] theorem State.releaseStop_records (s : State) (h : Head) :
    (s.releaseStop h).records = s.records :=
  by cases h <;> rfl
@[simp] theorem State.releaseStop_verdicts (s : State) (h : Head) :
    (s.releaseStop h).verdicts = s.verdicts :=
  by cases h <;> rfl
@[simp] theorem State.releaseStop_slot0 (s : State) (h : Head) : (s.releaseStop h).slot0 = s.slot0 := by cases h <;> rfl
@[simp] theorem State.releaseStop_slot1 (s : State) (h : Head) : (s.releaseStop h).slot1 = s.slot1 := by cases h <;> rfl
@[simp] theorem State.releaseStop_cell (s : State) (h : Head) : (s.releaseStop h).cell = s.cell := by cases h <;> rfl
@[simp] theorem State.releaseStop_portA (s : State) (h : Head) : (s.releaseStop h).portA = s.portA := by cases h <;> rfl
@[simp] theorem State.releaseStop_portB (s : State) (h : Head) : (s.releaseStop h).portB = s.portB := by cases h <;> rfl
@[simp] theorem State.releaseStop_blockSize (s : State) (h : Head) :
    (s.releaseStop h).blockSize = s.blockSize :=
  by cases h <;> rfl
@[simp] theorem State.releaseStop_site (s : State) (h : Head) (i : Nat) :
    (s.releaseStop h).site i = s.site i :=
  by cases h <;> rfl
@[simp] theorem State.releaseStop_pin (s : State) (h : Head) (i : Nat) :
    (s.releaseStop h).pin i = s.pin i :=
  by cases h <;> rfl
@[simp] theorem State.releaseStop_locked (s : State) (h : Head) (i : Nat) :
    (s.releaseStop h).locked i = s.locked i :=
  by cases h <;> rfl
@[simp] theorem State.releaseStop_record (s : State) (h : Head) (i : Nat) :
    (s.releaseStop h).record i = s.record i :=
  by cases h <;> rfl
@[simp] theorem State.releaseStop_verdict (s : State) (h : Head) (i : Nat) :
    (s.releaseStop h).verdict i = s.verdict i :=
  by cases h <;> rfl
@[simp] theorem State.releaseStop_slot (s : State) (h : Head) (i : Nat) :
    (s.releaseStop h).slot i = s.slot i :=
  by cases h <;> rfl
@[simp] theorem State.releaseStop_port (s : State) (h : Head) (p : Port) :
    (s.releaseStop h).port p = s.port p :=
  by cases h <;> cases p <;> rfl
@[simp] theorem State.releaseStop_head_other (s : State) (h : Head) :
    (s.releaseStop h).head (otherHead h) = s.head (otherHead h) :=
  by
  cases h <;> rfl

/-! ## Updates of a port -/

@[simp] theorem State.modPort_pending (s : State) (p : Port) (f : PortUnit → PortUnit) :
    (s.modPort p f).pending = s.pending :=
  by cases p <;> rfl
@[simp] theorem State.modPort_map (s : State) (p : Port) (f : PortUnit → PortUnit) :
    (s.modPort p f).map = s.map :=
  by cases p <;> rfl
@[simp] theorem State.modPort_library (s : State) (p : Port) (f : PortUnit → PortUnit) :
    (s.modPort p f).library = s.library :=
  by cases p <;> rfl
@[simp] theorem State.modPort_keep (s : State) (p : Port) (f : PortUnit → PortUnit) :
    (s.modPort p f).keep = s.keep :=
  by cases p <;> rfl
@[simp] theorem State.modPort_headA (s : State) (p : Port) (f : PortUnit → PortUnit) :
    (s.modPort p f).headA = s.headA :=
  by cases p <;> rfl
@[simp] theorem State.modPort_headB (s : State) (p : Port) (f : PortUnit → PortUnit) :
    (s.modPort p f).headB = s.headB :=
  by cases p <;> rfl
@[simp] theorem State.modPort_records (s : State) (p : Port) (f : PortUnit → PortUnit) :
    (s.modPort p f).records = s.records :=
  by cases p <;> rfl
@[simp] theorem State.modPort_verdicts (s : State) (p : Port) (f : PortUnit → PortUnit) :
    (s.modPort p f).verdicts = s.verdicts :=
  by cases p <;> rfl
@[simp] theorem State.modPort_slot0 (s : State) (p : Port) (f : PortUnit → PortUnit) :
    (s.modPort p f).slot0 = s.slot0 :=
  by cases p <;> rfl
@[simp] theorem State.modPort_slot1 (s : State) (p : Port) (f : PortUnit → PortUnit) :
    (s.modPort p f).slot1 = s.slot1 :=
  by cases p <;> rfl
@[simp] theorem State.modPort_blockSize (s : State) (p : Port) (f : PortUnit → PortUnit) :
    (s.modPort p f).blockSize = s.blockSize :=
  by cases p <;> rfl
@[simp] theorem State.modPort_site (s : State) (p : Port) (f : PortUnit → PortUnit) (i : Nat) :
    (s.modPort p f).site i = s.site i :=
  by cases p <;> rfl
@[simp] theorem State.modPort_pin (s : State) (p : Port) (f : PortUnit → PortUnit) (i : Nat) :
    (s.modPort p f).pin i = s.pin i :=
  by cases p <;> rfl
@[simp] theorem State.modPort_locked (s : State) (p : Port) (f : PortUnit → PortUnit) (i : Nat) :
    (s.modPort p f).locked i = s.locked i :=
  by cases p <;> rfl
@[simp] theorem State.modPort_record (s : State) (p : Port) (f : PortUnit → PortUnit) (i : Nat) :
    (s.modPort p f).record i = s.record i :=
  by cases p <;> rfl
@[simp] theorem State.modPort_verdict (s : State) (p : Port) (f : PortUnit → PortUnit) (i : Nat) :
    (s.modPort p f).verdict i = s.verdict i :=
  by cases p <;> rfl
@[simp] theorem State.modPort_slot (s : State) (p : Port) (f : PortUnit → PortUnit) (i : Nat) :
    (s.modPort p f).slot i = s.slot i :=
  by cases p <;> rfl
@[simp] theorem State.modPort_head (s : State) (p : Port) (f : PortUnit → PortUnit) (k : Head) :
    (s.modPort p f).head k = s.head k :=
  by cases p <;> cases k <;> rfl

@[simp] theorem State.endReception_pending (s : State) (p : Port) :
    (s.endReception p).pending = s.pending :=
  by cases p <;> rfl
@[simp] theorem State.endReception_map (s : State) (p : Port) : (s.endReception p).map = s.map := by cases p <;> rfl
@[simp] theorem State.endReception_library (s : State) (p : Port) :
    (s.endReception p).library = s.library :=
  by cases p <;> rfl
@[simp] theorem State.endReception_keep (s : State) (p : Port) : (s.endReception p).keep = s.keep := by cases p <;> rfl
@[simp] theorem State.endReception_headA (s : State) (p : Port) :
    (s.endReception p).headA = s.headA :=
  by cases p <;> rfl
@[simp] theorem State.endReception_headB (s : State) (p : Port) :
    (s.endReception p).headB = s.headB :=
  by cases p <;> rfl
@[simp] theorem State.endReception_records (s : State) (p : Port) :
    (s.endReception p).records = s.records :=
  by cases p <;> rfl
@[simp] theorem State.endReception_verdicts (s : State) (p : Port) :
    (s.endReception p).verdicts = s.verdicts :=
  by cases p <;> rfl
@[simp] theorem State.endReception_slot0 (s : State) (p : Port) :
    (s.endReception p).slot0 = s.slot0 :=
  by cases p <;> rfl
@[simp] theorem State.endReception_slot1 (s : State) (p : Port) :
    (s.endReception p).slot1 = s.slot1 :=
  by cases p <;> rfl
@[simp] theorem State.endReception_blockSize (s : State) (p : Port) :
    (s.endReception p).blockSize = s.blockSize :=
  by cases p <;> rfl
@[simp] theorem State.endReception_site (s : State) (p : Port) (i : Nat) :
    (s.endReception p).site i = s.site i :=
  by cases p <;> rfl
@[simp] theorem State.endReception_pin (s : State) (p : Port) (i : Nat) :
    (s.endReception p).pin i = s.pin i :=
  by cases p <;> rfl
@[simp] theorem State.endReception_locked (s : State) (p : Port) (i : Nat) :
    (s.endReception p).locked i = s.locked i :=
  by cases p <;> rfl
@[simp] theorem State.endReception_record (s : State) (p : Port) (i : Nat) :
    (s.endReception p).record i = s.record i :=
  by cases p <;> rfl
@[simp] theorem State.endReception_verdict (s : State) (p : Port) (i : Nat) :
    (s.endReception p).verdict i = s.verdict i :=
  by cases p <;> rfl
@[simp] theorem State.endReception_slot (s : State) (p : Port) (i : Nat) :
    (s.endReception p).slot i = s.slot i :=
  by cases p <;> rfl
@[simp] theorem State.endReception_head (s : State) (p : Port) (k : Head) :
    (s.endReception p).head k = s.head k :=
  by cases p <;> cases k <;> rfl

@[simp] theorem State.beginTransaction_pending (s : State) (p : Port) :
    (s.beginTransaction p).pending = s.pending :=
  by cases p <;> rfl
@[simp] theorem State.beginTransaction_map (s : State) (p : Port) : (s.beginTransaction p).map = s.map :=
  by cases p <;> rfl
@[simp] theorem State.beginTransaction_library (s : State) (p : Port) :
    (s.beginTransaction p).library = s.library :=
  by cases p <;> rfl
@[simp] theorem State.beginTransaction_keep (s : State) (p : Port) : (s.beginTransaction p).keep = s.keep :=
  by cases p <;> rfl
@[simp] theorem State.beginTransaction_headA (s : State) (p : Port) :
    (s.beginTransaction p).headA = s.headA :=
  by cases p <;> rfl
@[simp] theorem State.beginTransaction_headB (s : State) (p : Port) :
    (s.beginTransaction p).headB = s.headB :=
  by cases p <;> rfl
@[simp] theorem State.beginTransaction_records (s : State) (p : Port) :
    (s.beginTransaction p).records = s.records :=
  by cases p <;> rfl
@[simp] theorem State.beginTransaction_verdicts (s : State) (p : Port) :
    (s.beginTransaction p).verdicts = s.verdicts :=
  by cases p <;> rfl
@[simp] theorem State.beginTransaction_slot0 (s : State) (p : Port) :
    (s.beginTransaction p).slot0 = s.slot0 :=
  by cases p <;> rfl
@[simp] theorem State.beginTransaction_slot1 (s : State) (p : Port) :
    (s.beginTransaction p).slot1 = s.slot1 :=
  by cases p <;> rfl
@[simp] theorem State.beginTransaction_blockSize (s : State) (p : Port) :
    (s.beginTransaction p).blockSize = s.blockSize :=
  by cases p <;> rfl
@[simp] theorem State.beginTransaction_site (s : State) (p : Port) (i : Nat) :
    (s.beginTransaction p).site i = s.site i :=
  by cases p <;> rfl
@[simp] theorem State.beginTransaction_pin (s : State) (p : Port) (i : Nat) :
    (s.beginTransaction p).pin i = s.pin i :=
  by cases p <;> rfl
@[simp] theorem State.beginTransaction_locked (s : State) (p : Port) (i : Nat) :
    (s.beginTransaction p).locked i = s.locked i :=
  by cases p <;> rfl
@[simp] theorem State.beginTransaction_record (s : State) (p : Port) (i : Nat) :
    (s.beginTransaction p).record i = s.record i :=
  by cases p <;> rfl
@[simp] theorem State.beginTransaction_verdict (s : State) (p : Port) (i : Nat) :
    (s.beginTransaction p).verdict i = s.verdict i :=
  by cases p <;> rfl
@[simp] theorem State.beginTransaction_slot (s : State) (p : Port) (i : Nat) :
    (s.beginTransaction p).slot i = s.slot i :=
  by cases p <;> rfl
@[simp] theorem State.beginTransaction_head (s : State) (p : Port) (k : Head) :
    (s.beginTransaction p).head k = s.head k :=
  by cases p <;> cases k <;> rfl

@[simp] theorem State.discard_pending (s : State) (p : Port) : (s.discard p).pending = s.pending := by cases p <;> rfl
@[simp] theorem State.discard_map (s : State) (p : Port) : (s.discard p).map = s.map := by cases p <;> rfl
@[simp] theorem State.discard_library (s : State) (p : Port) : (s.discard p).library = s.library := by cases p <;> rfl
@[simp] theorem State.discard_keep (s : State) (p : Port) : (s.discard p).keep = s.keep := by cases p <;> rfl
@[simp] theorem State.discard_headA (s : State) (p : Port) : (s.discard p).headA = s.headA := by cases p <;> rfl
@[simp] theorem State.discard_headB (s : State) (p : Port) : (s.discard p).headB = s.headB := by cases p <;> rfl
@[simp] theorem State.discard_records (s : State) (p : Port) : (s.discard p).records = s.records := by cases p <;> rfl
@[simp] theorem State.discard_verdicts (s : State) (p : Port) :
    (s.discard p).verdicts = s.verdicts :=
  by cases p <;> rfl
@[simp] theorem State.discard_slot0 (s : State) (p : Port) : (s.discard p).slot0 = s.slot0 := by cases p <;> rfl
@[simp] theorem State.discard_slot1 (s : State) (p : Port) : (s.discard p).slot1 = s.slot1 := by cases p <;> rfl
@[simp] theorem State.discard_blockSize (s : State) (p : Port) :
    (s.discard p).blockSize = s.blockSize :=
  by cases p <;> rfl
@[simp] theorem State.discard_site (s : State) (p : Port) (i : Nat) :
    (s.discard p).site i = s.site i :=
  by cases p <;> rfl
@[simp] theorem State.discard_pin (s : State) (p : Port) (j : Nat) : (s.discard p).pin j = s.pin j := by cases p <;> rfl
@[simp] theorem State.discard_locked (s : State) (p : Port) (i : Nat) :
    (s.discard p).locked i = s.locked i :=
  by cases p <;> rfl
@[simp] theorem State.discard_record (s : State) (p : Port) (i : Nat) :
    (s.discard p).record i = s.record i :=
  by cases p <;> rfl
@[simp] theorem State.discard_verdict (s : State) (p : Port) (i : Nat) :
    (s.discard p).verdict i = s.verdict i :=
  by cases p <;> rfl
@[simp] theorem State.discard_slot (s : State) (p : Port) (i : Nat) :
    (s.discard p).slot i = s.slot i :=
  by cases p <;> rfl
@[simp] theorem State.discard_head (s : State) (p : Port) (k : Head) :
    (s.discard p).head k = s.head k :=
  by cases p <;> cases k <;> rfl

@[simp] theorem State.answer_pending (s : State) (p : Port) (code : Byte) (status : Status) (payload : List Byte) :
    (s.answer p code status payload).pending = s.pending :=
  by cases p <;> rfl
@[simp] theorem State.answer_map (s : State) (p : Port) (code : Byte) (status : Status) (payload : List Byte) :
    (s.answer p code status payload).map = s.map :=
  by cases p <;> rfl
@[simp] theorem State.answer_library (s : State) (p : Port) (code : Byte) (status : Status) (payload : List Byte) :
    (s.answer p code status payload).library = s.library :=
  by cases p <;> rfl
@[simp] theorem State.answer_keep (s : State) (p : Port) (code : Byte) (status : Status) (payload : List Byte) :
    (s.answer p code status payload).keep = s.keep :=
  by cases p <;> rfl
@[simp] theorem State.answer_headA (s : State) (p : Port) (code : Byte) (status : Status) (payload : List Byte) :
    (s.answer p code status payload).headA = s.headA :=
  by cases p <;> rfl
@[simp] theorem State.answer_headB (s : State) (p : Port) (code : Byte) (status : Status) (payload : List Byte) :
    (s.answer p code status payload).headB = s.headB :=
  by cases p <;> rfl
@[simp] theorem State.answer_records (s : State) (p : Port) (code : Byte) (status : Status) (payload : List Byte) :
    (s.answer p code status payload).records = s.records :=
  by cases p <;> rfl
@[simp] theorem State.answer_verdicts (s : State) (p : Port) (code : Byte) (status : Status) (payload : List Byte) :
    (s.answer p code status payload).verdicts = s.verdicts :=
  by cases p <;> rfl
@[simp] theorem State.answer_slot0 (s : State) (p : Port) (code : Byte) (status : Status) (payload : List Byte) :
    (s.answer p code status payload).slot0 = s.slot0 :=
  by cases p <;> rfl
@[simp] theorem State.answer_slot1 (s : State) (p : Port) (code : Byte) (status : Status) (payload : List Byte) :
    (s.answer p code status payload).slot1 = s.slot1 :=
  by cases p <;> rfl
@[simp] theorem State.answer_blockSize (s : State) (p : Port) (code : Byte) (status : Status) (payload : List Byte) :
    (s.answer p code status payload).blockSize = s.blockSize :=
  by cases p <;> rfl
@[simp] theorem State.answer_site (s : State) (p : Port) (code : Byte) (status : Status) (payload : List Byte) (i : Nat) :
    (s.answer p code status payload).site i = s.site i :=
  by cases p <;> rfl
@[simp] theorem State.answer_pin (s : State) (p : Port) (code : Byte) (status : Status) (payload : List Byte) (i : Nat) :
    (s.answer p code status payload).pin i = s.pin i :=
  by cases p <;> rfl
@[simp] theorem State.answer_locked (s : State) (p : Port) (code : Byte) (status : Status) (payload : List Byte) (i : Nat) :
    (s.answer p code status payload).locked i = s.locked i :=
  by cases p <;> rfl
@[simp] theorem State.answer_record (s : State) (p : Port) (code : Byte) (status : Status) (payload : List Byte) (i : Nat) :
    (s.answer p code status payload).record i = s.record i :=
  by cases p <;> rfl
@[simp] theorem State.answer_verdict (s : State) (p : Port) (code : Byte) (status : Status) (payload : List Byte) (i : Nat) :
    (s.answer p code status payload).verdict i = s.verdict i :=
  by cases p <;> rfl
@[simp] theorem State.answer_slot (s : State) (p : Port) (code : Byte) (status : Status) (payload : List Byte) (i : Nat) :
    (s.answer p code status payload).slot i = s.slot i :=
  by cases p <;> rfl
@[simp] theorem State.answer_head (s : State) (p : Port) (code : Byte) (status : Status) (payload : List Byte) (k : Head) :
    (s.answer p code status payload).head k = s.head k :=
  by cases p <;> cases k <;> rfl

@[simp] theorem State.withReply_pending (s : State) (p : Port) (code : Byte) (status : Status) (payload : List Byte) :
    (s.withReply p code status payload).pending = s.pending :=
  by cases p <;> rfl
@[simp] theorem State.withReply_map (s : State) (p : Port) (code : Byte) (status : Status) (payload : List Byte) :
    (s.withReply p code status payload).map = s.map :=
  by cases p <;> rfl
@[simp] theorem State.withReply_library (s : State) (p : Port) (code : Byte) (status : Status) (payload : List Byte) :
    (s.withReply p code status payload).library = s.library :=
  by cases p <;> rfl
@[simp] theorem State.withReply_keep (s : State) (p : Port) (code : Byte) (status : Status) (payload : List Byte) :
    (s.withReply p code status payload).keep = s.keep :=
  by cases p <;> rfl
@[simp] theorem State.withReply_headA (s : State) (p : Port) (code : Byte) (status : Status) (payload : List Byte) :
    (s.withReply p code status payload).headA = s.headA :=
  by cases p <;> rfl
@[simp] theorem State.withReply_headB (s : State) (p : Port) (code : Byte) (status : Status) (payload : List Byte) :
    (s.withReply p code status payload).headB = s.headB :=
  by cases p <;> rfl
@[simp] theorem State.withReply_records (s : State) (p : Port) (code : Byte) (status : Status) (payload : List Byte) :
    (s.withReply p code status payload).records = s.records :=
  by cases p <;> rfl
@[simp] theorem State.withReply_verdicts (s : State) (p : Port) (code : Byte) (status : Status) (payload : List Byte) :
    (s.withReply p code status payload).verdicts = s.verdicts :=
  by cases p <;> rfl
@[simp] theorem State.withReply_slot0 (s : State) (p : Port) (code : Byte) (status : Status) (payload : List Byte) :
    (s.withReply p code status payload).slot0 = s.slot0 :=
  by cases p <;> rfl
@[simp] theorem State.withReply_slot1 (s : State) (p : Port) (code : Byte) (status : Status) (payload : List Byte) :
    (s.withReply p code status payload).slot1 = s.slot1 :=
  by cases p <;> rfl
@[simp] theorem State.withReply_blockSize (s : State) (p : Port) (code : Byte) (status : Status) (payload : List Byte) :
    (s.withReply p code status payload).blockSize = s.blockSize :=
  by cases p <;> rfl
@[simp] theorem State.withReply_site (s : State) (p : Port) (code : Byte) (status : Status) (payload : List Byte) (i : Nat) :
    (s.withReply p code status payload).site i = s.site i :=
  by cases p <;> rfl
@[simp] theorem State.withReply_pin (s : State) (p : Port) (code : Byte) (status : Status) (payload : List Byte) (i : Nat) :
    (s.withReply p code status payload).pin i = s.pin i :=
  by cases p <;> rfl
@[simp] theorem State.withReply_locked (s : State) (p : Port) (code : Byte) (status : Status) (payload : List Byte) (i : Nat) :
    (s.withReply p code status payload).locked i = s.locked i :=
  by cases p <;> rfl
@[simp] theorem State.withReply_record (s : State) (p : Port) (code : Byte) (status : Status) (payload : List Byte) (i : Nat) :
    (s.withReply p code status payload).record i = s.record i :=
  by cases p <;> rfl
@[simp] theorem State.withReply_verdict (s : State) (p : Port) (code : Byte) (status : Status) (payload : List Byte) (i : Nat) :
    (s.withReply p code status payload).verdict i = s.verdict i :=
  by cases p <;> rfl
@[simp] theorem State.withReply_slot (s : State) (p : Port) (code : Byte) (status : Status) (payload : List Byte) (i : Nat) :
    (s.withReply p code status payload).slot i = s.slot i :=
  by cases p <;> rfl
@[simp] theorem State.withReply_head (s : State) (p : Port) (code : Byte) (status : Status) (payload : List Byte) (k : Head) :
    (s.withReply p code status payload).head k = s.head k :=
  by cases p <;> cases k <;> rfl

@[simp] theorem State.withMark_pending (s : State) (p : Port) : (s.withMark p).pending = s.pending := by cases p <;> rfl
@[simp] theorem State.withMark_map (s : State) (p : Port) : (s.withMark p).map = s.map := by cases p <;> rfl
@[simp] theorem State.withMark_library (s : State) (p : Port) : (s.withMark p).library = s.library := by cases p <;> rfl
@[simp] theorem State.withMark_keep (s : State) (p : Port) : (s.withMark p).keep = s.keep := by cases p <;> rfl
@[simp] theorem State.withMark_headA (s : State) (p : Port) : (s.withMark p).headA = s.headA := by cases p <;> rfl
@[simp] theorem State.withMark_headB (s : State) (p : Port) : (s.withMark p).headB = s.headB := by cases p <;> rfl
@[simp] theorem State.withMark_records (s : State) (p : Port) : (s.withMark p).records = s.records := by cases p <;> rfl
@[simp] theorem State.withMark_verdicts (s : State) (p : Port) :
    (s.withMark p).verdicts = s.verdicts :=
  by cases p <;> rfl
@[simp] theorem State.withMark_slot0 (s : State) (p : Port) : (s.withMark p).slot0 = s.slot0 := by cases p <;> rfl
@[simp] theorem State.withMark_slot1 (s : State) (p : Port) : (s.withMark p).slot1 = s.slot1 := by cases p <;> rfl
@[simp] theorem State.withMark_blockSize (s : State) (p : Port) :
    (s.withMark p).blockSize = s.blockSize :=
  by cases p <;> rfl
@[simp] theorem State.withMark_site (s : State) (p : Port) (i : Nat) :
    (s.withMark p).site i = s.site i :=
  by cases p <;> rfl
@[simp] theorem State.withMark_pin (s : State) (p : Port) (i : Nat) :
    (s.withMark p).pin i = s.pin i :=
  by cases p <;> rfl
@[simp] theorem State.withMark_locked (s : State) (p : Port) (i : Nat) :
    (s.withMark p).locked i = s.locked i :=
  by cases p <;> rfl
@[simp] theorem State.withMark_record (s : State) (p : Port) (i : Nat) :
    (s.withMark p).record i = s.record i :=
  by cases p <;> rfl
@[simp] theorem State.withMark_verdict (s : State) (p : Port) (i : Nat) :
    (s.withMark p).verdict i = s.verdict i :=
  by cases p <;> rfl
@[simp] theorem State.withMark_slot (s : State) (p : Port) (i : Nat) :
    (s.withMark p).slot i = s.slot i :=
  by cases p <;> rfl
@[simp] theorem State.withMark_head (s : State) (p : Port) (k : Head) :
    (s.withMark p).head k = s.head k :=
  by cases p <;> cases k <;> rfl

@[simp] theorem State.postTo_pending (s : State) (p : Port) (n : Notice) :
    (s.postTo p n).pending = s.pending :=
  by cases p <;> rfl
@[simp] theorem State.postTo_map (s : State) (p : Port) (n : Notice) : (s.postTo p n).map = s.map := by cases p <;> rfl
@[simp] theorem State.postTo_library (s : State) (p : Port) (n : Notice) :
    (s.postTo p n).library = s.library :=
  by cases p <;> rfl
@[simp] theorem State.postTo_keep (s : State) (p : Port) (n : Notice) :
    (s.postTo p n).keep = s.keep :=
  by cases p <;> rfl
@[simp] theorem State.postTo_headA (s : State) (p : Port) (n : Notice) :
    (s.postTo p n).headA = s.headA :=
  by cases p <;> rfl
@[simp] theorem State.postTo_headB (s : State) (p : Port) (n : Notice) :
    (s.postTo p n).headB = s.headB :=
  by cases p <;> rfl
@[simp] theorem State.postTo_records (s : State) (p : Port) (n : Notice) :
    (s.postTo p n).records = s.records :=
  by cases p <;> rfl
@[simp] theorem State.postTo_verdicts (s : State) (p : Port) (n : Notice) :
    (s.postTo p n).verdicts = s.verdicts :=
  by cases p <;> rfl
@[simp] theorem State.postTo_slot0 (s : State) (p : Port) (n : Notice) :
    (s.postTo p n).slot0 = s.slot0 :=
  by cases p <;> rfl
@[simp] theorem State.postTo_slot1 (s : State) (p : Port) (n : Notice) :
    (s.postTo p n).slot1 = s.slot1 :=
  by cases p <;> rfl
@[simp] theorem State.postTo_blockSize (s : State) (p : Port) (n : Notice) :
    (s.postTo p n).blockSize = s.blockSize :=
  by cases p <;> rfl
@[simp] theorem State.postTo_site (s : State) (p : Port) (n : Notice) (i : Nat) :
    (s.postTo p n).site i = s.site i :=
  by cases p <;> rfl
@[simp] theorem State.postTo_pin (s : State) (p : Port) (n : Notice) (i : Nat) :
    (s.postTo p n).pin i = s.pin i :=
  by cases p <;> rfl
@[simp] theorem State.postTo_locked (s : State) (p : Port) (n : Notice) (i : Nat) :
    (s.postTo p n).locked i = s.locked i :=
  by cases p <;> rfl
@[simp] theorem State.postTo_record (s : State) (p : Port) (n : Notice) (i : Nat) :
    (s.postTo p n).record i = s.record i :=
  by cases p <;> rfl
@[simp] theorem State.postTo_verdict (s : State) (p : Port) (n : Notice) (i : Nat) :
    (s.postTo p n).verdict i = s.verdict i :=
  by cases p <;> rfl
@[simp] theorem State.postTo_slot (s : State) (p : Port) (n : Notice) (i : Nat) :
    (s.postTo p n).slot i = s.slot i :=
  by cases p <;> rfl
@[simp] theorem State.postTo_head (s : State) (p : Port) (n : Notice) (k : Head) :
    (s.postTo p n).head k = s.head k :=
  by cases p <;> cases k <;> rfl

@[simp] theorem State.postHead_pending (s : State) (h : Head) (n : Notice) :
    (s.postHead h n).pending = s.pending :=
  by cases h <;> rfl
@[simp] theorem State.postHead_map (s : State) (h : Head) (n : Notice) :
    (s.postHead h n).map = s.map :=
  by cases h <;> rfl
@[simp] theorem State.postHead_library (s : State) (h : Head) (n : Notice) :
    (s.postHead h n).library = s.library :=
  by cases h <;> rfl
@[simp] theorem State.postHead_keep (s : State) (h : Head) (n : Notice) :
    (s.postHead h n).keep = s.keep :=
  by cases h <;> rfl
@[simp] theorem State.postHead_headA (s : State) (h : Head) (n : Notice) :
    (s.postHead h n).headA = s.headA :=
  by cases h <;> rfl
@[simp] theorem State.postHead_headB (s : State) (h : Head) (n : Notice) :
    (s.postHead h n).headB = s.headB :=
  by cases h <;> rfl
@[simp] theorem State.postHead_records (s : State) (h : Head) (n : Notice) :
    (s.postHead h n).records = s.records :=
  by cases h <;> rfl
@[simp] theorem State.postHead_verdicts (s : State) (h : Head) (n : Notice) :
    (s.postHead h n).verdicts = s.verdicts :=
  by cases h <;> rfl
@[simp] theorem State.postHead_slot0 (s : State) (h : Head) (n : Notice) :
    (s.postHead h n).slot0 = s.slot0 :=
  by cases h <;> rfl
@[simp] theorem State.postHead_slot1 (s : State) (h : Head) (n : Notice) :
    (s.postHead h n).slot1 = s.slot1 :=
  by cases h <;> rfl
@[simp] theorem State.postHead_blockSize (s : State) (h : Head) (n : Notice) :
    (s.postHead h n).blockSize = s.blockSize :=
  by cases h <;> rfl
@[simp] theorem State.postHead_site (s : State) (h : Head) (n : Notice) (i : Nat) :
    (s.postHead h n).site i = s.site i :=
  by cases h <;> rfl
@[simp] theorem State.postHead_pin (s : State) (h : Head) (n : Notice) (i : Nat) :
    (s.postHead h n).pin i = s.pin i :=
  by cases h <;> rfl
@[simp] theorem State.postHead_locked (s : State) (h : Head) (n : Notice) (i : Nat) :
    (s.postHead h n).locked i = s.locked i :=
  by cases h <;> rfl
@[simp] theorem State.postHead_record (s : State) (h : Head) (n : Notice) (i : Nat) :
    (s.postHead h n).record i = s.record i :=
  by cases h <;> rfl
@[simp] theorem State.postHead_verdict (s : State) (h : Head) (n : Notice) (i : Nat) :
    (s.postHead h n).verdict i = s.verdict i :=
  by cases h <;> rfl
@[simp] theorem State.postHead_slot (s : State) (h : Head) (n : Notice) (i : Nat) :
    (s.postHead h n).slot i = s.slot i :=
  by cases h <;> rfl
@[simp] theorem State.postHead_head (s : State) (h : Head) (n : Notice) (k : Head) :
    (s.postHead h n).head k = s.head k :=
  by cases h <;> cases k <;> rfl

@[simp] theorem State.postAll_pending (s : State) (n : Notice) : (s.postAll n).pending = s.pending := rfl
@[simp] theorem State.postAll_map (s : State) (n : Notice) : (s.postAll n).map = s.map := rfl
@[simp] theorem State.postAll_library (s : State) (n : Notice) : (s.postAll n).library = s.library := rfl
@[simp] theorem State.postAll_keep (s : State) (n : Notice) : (s.postAll n).keep = s.keep := rfl
@[simp] theorem State.postAll_headA (s : State) (n : Notice) : (s.postAll n).headA = s.headA := rfl
@[simp] theorem State.postAll_headB (s : State) (n : Notice) : (s.postAll n).headB = s.headB := rfl
@[simp] theorem State.postAll_records (s : State) (n : Notice) : (s.postAll n).records = s.records := rfl
@[simp] theorem State.postAll_verdicts (s : State) (n : Notice) : (s.postAll n).verdicts = s.verdicts := rfl
@[simp] theorem State.postAll_slot0 (s : State) (n : Notice) : (s.postAll n).slot0 = s.slot0 := rfl
@[simp] theorem State.postAll_slot1 (s : State) (n : Notice) : (s.postAll n).slot1 = s.slot1 := rfl
@[simp] theorem State.postAll_blockSize (s : State) (n : Notice) : (s.postAll n).blockSize = s.blockSize := rfl
@[simp] theorem State.postAll_site (s : State) (n : Notice) (j : Nat) : (s.postAll n).site j = s.site j := rfl
@[simp] theorem State.postAll_pin (s : State) (n : Notice) (j : Nat) : (s.postAll n).pin j = s.pin j := rfl
@[simp] theorem State.postAll_locked (s : State) (n : Notice) (j : Nat) : (s.postAll n).locked j = s.locked j := rfl
@[simp] theorem State.postAll_record (s : State) (n : Notice) (j : Nat) : (s.postAll n).record j = s.record j := rfl
@[simp] theorem State.postAll_verdict (s : State) (n : Notice) (j : Nat) : (s.postAll n).verdict j = s.verdict j := rfl
@[simp] theorem State.postAll_slot (s : State) (n : Notice) (j : Nat) : (s.postAll n).slot j = s.slot j := rfl
@[simp] theorem State.postAll_head (s : State) (n : Notice) (k : Head) :
    (s.postAll n).head k = s.head k :=
  by cases k <;> rfl

@[simp] theorem State.overtakeTransfer_pending (s : State) (i : Nat) : (s.overtakeTransfer i).pending = s.pending := rfl
@[simp] theorem State.overtakeTransfer_map (s : State) (i : Nat) : (s.overtakeTransfer i).map = s.map := rfl
@[simp] theorem State.overtakeTransfer_library (s : State) (i : Nat) : (s.overtakeTransfer i).library = s.library := rfl
@[simp] theorem State.overtakeTransfer_keep (s : State) (i : Nat) : (s.overtakeTransfer i).keep = s.keep := rfl
@[simp] theorem State.overtakeTransfer_headA (s : State) (i : Nat) : (s.overtakeTransfer i).headA = s.headA := rfl
@[simp] theorem State.overtakeTransfer_headB (s : State) (i : Nat) : (s.overtakeTransfer i).headB = s.headB := rfl
@[simp] theorem State.overtakeTransfer_records (s : State) (i : Nat) : (s.overtakeTransfer i).records = s.records := rfl
@[simp] theorem State.overtakeTransfer_verdicts (s : State) (i : Nat) :
    (s.overtakeTransfer i).verdicts = s.verdicts :=
  rfl
@[simp] theorem State.overtakeTransfer_slot0 (s : State) (i : Nat) : (s.overtakeTransfer i).slot0 = s.slot0 := rfl
@[simp] theorem State.overtakeTransfer_slot1 (s : State) (i : Nat) : (s.overtakeTransfer i).slot1 = s.slot1 := rfl
@[simp] theorem State.overtakeTransfer_blockSize (s : State) (i : Nat) :
    (s.overtakeTransfer i).blockSize = s.blockSize :=
  rfl
@[simp] theorem State.overtakeTransfer_site (s : State) (i j : Nat) :
    (s.overtakeTransfer i).site j = s.site j :=
  rfl
@[simp] theorem State.overtakeTransfer_pin (s : State) (i j : Nat) :
    (s.overtakeTransfer i).pin j = s.pin j :=
  rfl
@[simp] theorem State.overtakeTransfer_locked (s : State) (i j : Nat) :
    (s.overtakeTransfer i).locked j = s.locked j :=
  rfl
@[simp] theorem State.overtakeTransfer_record (s : State) (i j : Nat) :
    (s.overtakeTransfer i).record j = s.record j :=
  rfl
@[simp] theorem State.overtakeTransfer_verdict (s : State) (i j : Nat) :
    (s.overtakeTransfer i).verdict j = s.verdict j :=
  rfl
@[simp] theorem State.overtakeTransfer_slot (s : State) (i j : Nat) :
    (s.overtakeTransfer i).slot j = s.slot j :=
  rfl
@[simp] theorem State.overtakeTransfer_head (s : State) (i : Nat) (k : Head) :
    (s.overtakeTransfer i).head k = s.head k :=
  by cases k <;> rfl

/-! ## What the updates of a head write -/

@[simp] theorem State.modHead_head (s : State) (h : Head) (f : HeadUnit → HeadUnit) :
    (s.modHead h f).head h = f (s.head h) := by cases h <;> rfl

theorem State.head_modHead (s : State) (h k : Head) (f : HeadUnit → HeadUnit) :
    (s.modHead h f).head k = if k = h then f (s.head k) else s.head k := by cases h <;> cases k <;> rfl

@[simp] theorem State.setEngine_head (s : State) (h : Head) (e : Engine) :
    (s.setEngine h e).head h = { s.head h with engine := e } := by cases h <;> rfl

@[simp] theorem State.setClaim_head (s : State) (h : Head) (c : Option Claim) :
    (s.setClaim h c).head h = { s.head h with claim := c } := by cases h <;> rfl

@[simp] theorem State.setWaiting_head (s : State) (h : Head) (w : Option Wait) :
    (s.setWaiting h w).head h = { s.head h with waiting := w } := by cases h <;> rfl

@[simp] theorem State.modLines_head (s : State) (h : Head) (f : Lines → Lines) :
    (s.modLines h f).head h = { s.head h with lines := f (s.head h).lines } := by cases h <;> rfl

@[simp] theorem State.setSilence_head (s : State) (h : Head) (t : Option Nat) :
    (s.setSilence h t).head h = { s.head h with link := { (s.head h).link with silence := t } } := by
  cases h <;> rfl

@[simp] theorem State.linkIdle_head (s : State) (h : Head) :
    (s.linkIdle h).head h = { s.head h with link := { (s.head h).link with awaitIdle := false } } := by
  cases h <;> rfl

@[simp] theorem State.assertStop_head (s : State) (h : Head) :
    (s.assertStop h).head h =
      { s.head h with lines := { (s.head h).lines with stop := true, override := .engine } } := by
  cases h <;> rfl

@[simp] theorem State.releaseStop_head (s : State) (h : Head) :
    (s.releaseStop h).head h = { s.head h with lines := { (s.head h).lines with stop := false } } := by
  cases h <;> rfl

@[simp] theorem State.toIdle_head (s : State) (h : Head) :
    (s.toIdle h).head h =
      { s.head h with engine := .idle, link := { (s.head h).link with silence := none } } := by
  cases h <;> rfl

@[simp] theorem State.markDue_head (s : State) (h : Head) :
    (s.markDue h).head h =
      { s.head h with waiting := (s.head h).waiting.map (fun w => { w with due := true }) } := by
  cases h <;> rfl

/-! ## What the updates of a port write -/

@[simp] theorem State.modPort_port (s : State) (p : Port) (f : PortUnit → PortUnit) :
    (s.modPort p f).port p = f (s.port p) := by cases p <;> rfl

theorem State.port_modPort (s : State) (p q : Port) (f : PortUnit → PortUnit) :
    (s.modPort p f).port q = if q = p then f (s.port q) else s.port q := by cases p <;> cases q <;> rfl

@[simp] theorem State.answer_port (s : State) (p : Port) (code : Byte) (status : Status) (payload : List Byte) :
    (s.answer p code status payload).port p =
      { s.port p with reply := some { code := code, status := status, more := false, payload := payload } } := by
  cases p <;> rfl

@[simp] theorem State.endReception_port (s : State) (p : Port) :
    (s.endReception p).port p = { s.port p with reception := none } := by cases p <;> rfl

@[simp] theorem State.beginTransaction_port (s : State) (p : Port) :
    (s.beginTransaction p).port p =
      { s.port p with discarded := (s.port p).discarded || leftShort (s.port p), reception := none } := by
  cases p <;> rfl

@[simp] theorem State.postTo_port (s : State) (p : Port) (n : Notice) :
    (s.postTo p n).port p = { s.port p with queue := arrive (s.port p).queue n } := by cases p <;> rfl

/-- A notice for a head arrives at that head's port. -/
theorem State.postHead_port (s : State) (h : Head) (n : Notice) :
    (s.postHead h n).port (headPort h) =
      { s.port (headPort h) with queue := arrive (s.port (headPort h)).queue n } := by
  cases h <;> rfl

/-- A notice for a head arrives at the Cell Port. -/
theorem State.postHead_cell (s : State) (h : Head) (n : Notice) :
    (s.postHead h n).cell = { s.cell with queue := arrive s.cell.queue n } := by cases h <;> rfl

/-- A notice for a head leaves the other head's port as it was. -/
theorem State.postHead_port_other (s : State) (h : Head) (n : Notice) :
    (s.postHead h n).port (headPort (otherHead h)) = s.port (headPort (otherHead h)) := by cases h <;> rfl

/-- Answering in a transaction of its own is the form that the statements name. -/
theorem State.answer_beginTransaction (s : State) (p : Port) (code : Byte) (status : Status) (payload : List Byte) :
    (s.beginTransaction p).answer p code status payload = s.withReply p code status payload := by cases p <;> rfl

/-- Answering a frame of bytes, which is in reception no more. -/
theorem State.answer_endReception (s : State) (p : Port) (code : Byte) (status : Status) (payload : List Byte) :
    (s.endReception p).answer p code status payload = (s.endReception p).withReply p code status payload := by
  cases p <;> simp [State.answer, State.withReply, State.endReception, State.modPort, leftShort]

/-- A frame that has just left reception left nothing short. -/
theorem State.beginTransaction_endReception (s : State) (p : Port) :
    (s.endReception p).beginTransaction p = s.endReception p := by
  cases p <;> simp [State.beginTransaction, State.endReception, State.modPort, leftShort]

/-- Where nothing was left short, a transaction of its own only clears the reception. -/
theorem State.beginTransaction_of_not_leftShort (s : State) (p : Port) (h : leftShort (s.port p) = false) :
    s.beginTransaction p = s.endReception p := by
  cases p <;> simp_all [State.beginTransaction, State.endReception, State.modPort, State.port]

/-! ## Updates of the map, of the records and of the slots -/

@[simp] theorem State.setSite_pending (s : State) (i : Nat) (x : Site) : (s.setSite i x).pending = s.pending := rfl
@[simp] theorem State.setSite_library (s : State) (i : Nat) (x : Site) : (s.setSite i x).library = s.library := rfl
@[simp] theorem State.setSite_keep (s : State) (i : Nat) (x : Site) : (s.setSite i x).keep = s.keep := rfl
@[simp] theorem State.setSite_headA (s : State) (i : Nat) (x : Site) : (s.setSite i x).headA = s.headA := rfl
@[simp] theorem State.setSite_headB (s : State) (i : Nat) (x : Site) : (s.setSite i x).headB = s.headB := rfl
@[simp] theorem State.setSite_records (s : State) (i : Nat) (x : Site) : (s.setSite i x).records = s.records := rfl
@[simp] theorem State.setSite_verdicts (s : State) (i : Nat) (x : Site) : (s.setSite i x).verdicts = s.verdicts := rfl
@[simp] theorem State.setSite_slot0 (s : State) (i : Nat) (x : Site) : (s.setSite i x).slot0 = s.slot0 := rfl
@[simp] theorem State.setSite_slot1 (s : State) (i : Nat) (x : Site) : (s.setSite i x).slot1 = s.slot1 := rfl
@[simp] theorem State.setSite_cell (s : State) (i : Nat) (x : Site) : (s.setSite i x).cell = s.cell := rfl
@[simp] theorem State.setSite_portA (s : State) (i : Nat) (x : Site) : (s.setSite i x).portA = s.portA := rfl
@[simp] theorem State.setSite_portB (s : State) (i : Nat) (x : Site) : (s.setSite i x).portB = s.portB := rfl
@[simp] theorem State.setSite_blockSize (s : State) (i : Nat) (x : Site) :
    (s.setSite i x).blockSize = s.blockSize :=
  rfl
@[simp] theorem State.setSite_map_mode (s : State) (i : Nat) (x : Site) : (s.setSite i x).map.mode = s.map.mode := rfl
@[simp] theorem State.setSite_map_generation (s : State) (i : Nat) (x : Site) :
    (s.setSite i x).map.generation = s.map.generation :=
  rfl
@[simp] theorem State.setSite_map_keepOut (s : State) (i : Nat) (x : Site) :
    (s.setSite i x).map.keepOut = s.map.keepOut :=
  rfl
@[simp] theorem State.setSite_map_pins (s : State) (i : Nat) (x : Site) : (s.setSite i x).map.pins = s.map.pins := rfl
@[simp] theorem State.setSite_map_locks (s : State) (i : Nat) (x : Site) :
    (s.setSite i x).map.locks = s.map.locks :=
  rfl
@[simp] theorem State.setSite_head (s : State) (i : Nat) (x : Site) (k : Head) :
    (s.setSite i x).head k = s.head k :=
  by cases k <;> rfl
@[simp] theorem State.setSite_port (s : State) (i : Nat) (x : Site) (p : Port) :
    (s.setSite i x).port p = s.port p :=
  by cases p <;> rfl
@[simp] theorem State.setSite_pin (s : State) (i : Nat) (x : Site) (j : Nat) : (s.setSite i x).pin j = s.pin j := rfl
@[simp] theorem State.setSite_record (s : State) (i : Nat) (x : Site) (j : Nat) :
    (s.setSite i x).record j = s.record j :=
  rfl
@[simp] theorem State.setSite_verdict (s : State) (i : Nat) (x : Site) (j : Nat) :
    (s.setSite i x).verdict j = s.verdict j :=
  rfl
@[simp] theorem State.setSite_slot (s : State) (i : Nat) (x : Site) (j : Nat) : (s.setSite i x).slot j = s.slot j := rfl
@[simp] theorem State.setSite_locked (s : State) (i : Nat) (x : Site) (j : Nat) :
    (s.setSite i x).locked j = s.locked j :=
  rfl

@[simp] theorem State.setLock_pending (s : State) (i : Nat) (b : Bool) : (s.setLock i b).pending = s.pending := rfl
@[simp] theorem State.setLock_library (s : State) (i : Nat) (b : Bool) : (s.setLock i b).library = s.library := rfl
@[simp] theorem State.setLock_keep (s : State) (i : Nat) (b : Bool) : (s.setLock i b).keep = s.keep := rfl
@[simp] theorem State.setLock_headA (s : State) (i : Nat) (b : Bool) : (s.setLock i b).headA = s.headA := rfl
@[simp] theorem State.setLock_headB (s : State) (i : Nat) (b : Bool) : (s.setLock i b).headB = s.headB := rfl
@[simp] theorem State.setLock_records (s : State) (i : Nat) (b : Bool) : (s.setLock i b).records = s.records := rfl
@[simp] theorem State.setLock_verdicts (s : State) (i : Nat) (b : Bool) : (s.setLock i b).verdicts = s.verdicts := rfl
@[simp] theorem State.setLock_slot0 (s : State) (i : Nat) (b : Bool) : (s.setLock i b).slot0 = s.slot0 := rfl
@[simp] theorem State.setLock_slot1 (s : State) (i : Nat) (b : Bool) : (s.setLock i b).slot1 = s.slot1 := rfl
@[simp] theorem State.setLock_cell (s : State) (i : Nat) (b : Bool) : (s.setLock i b).cell = s.cell := rfl
@[simp] theorem State.setLock_portA (s : State) (i : Nat) (b : Bool) : (s.setLock i b).portA = s.portA := rfl
@[simp] theorem State.setLock_portB (s : State) (i : Nat) (b : Bool) : (s.setLock i b).portB = s.portB := rfl
@[simp] theorem State.setLock_blockSize (s : State) (i : Nat) (b : Bool) :
    (s.setLock i b).blockSize = s.blockSize :=
  rfl
@[simp] theorem State.setLock_map_mode (s : State) (i : Nat) (b : Bool) : (s.setLock i b).map.mode = s.map.mode := rfl
@[simp] theorem State.setLock_map_generation (s : State) (i : Nat) (b : Bool) :
    (s.setLock i b).map.generation = s.map.generation :=
  rfl
@[simp] theorem State.setLock_map_keepOut (s : State) (i : Nat) (b : Bool) :
    (s.setLock i b).map.keepOut = s.map.keepOut :=
  rfl
@[simp] theorem State.setLock_map_pins (s : State) (i : Nat) (b : Bool) : (s.setLock i b).map.pins = s.map.pins := rfl
@[simp] theorem State.setLock_map_sites (s : State) (i : Nat) (b : Bool) :
    (s.setLock i b).map.sites = s.map.sites :=
  rfl
@[simp] theorem State.setLock_head (s : State) (i : Nat) (b : Bool) (k : Head) :
    (s.setLock i b).head k = s.head k :=
  by cases k <;> rfl
@[simp] theorem State.setLock_port (s : State) (i : Nat) (b : Bool) (p : Port) :
    (s.setLock i b).port p = s.port p :=
  by cases p <;> rfl
@[simp] theorem State.setLock_pin (s : State) (i : Nat) (b : Bool) (j : Nat) : (s.setLock i b).pin j = s.pin j := rfl
@[simp] theorem State.setLock_record (s : State) (i : Nat) (b : Bool) (j : Nat) :
    (s.setLock i b).record j = s.record j :=
  rfl
@[simp] theorem State.setLock_verdict (s : State) (i : Nat) (b : Bool) (j : Nat) :
    (s.setLock i b).verdict j = s.verdict j :=
  rfl
@[simp] theorem State.setLock_slot (s : State) (i : Nat) (b : Bool) (j : Nat) : (s.setLock i b).slot j = s.slot j := rfl
@[simp] theorem State.setLock_site (s : State) (i : Nat) (b : Bool) (j : Nat) : (s.setLock i b).site j = s.site j := rfl

@[simp] theorem State.resolveSite_pending (s : State) (i : Nat) (st : SiteState) :
    (s.resolveSite i st).pending = s.pending :=
  rfl
@[simp] theorem State.resolveSite_library (s : State) (i : Nat) (st : SiteState) :
    (s.resolveSite i st).library = s.library :=
  rfl
@[simp] theorem State.resolveSite_keep (s : State) (i : Nat) (st : SiteState) :
    (s.resolveSite i st).keep = s.keep :=
  rfl
@[simp] theorem State.resolveSite_headA (s : State) (i : Nat) (st : SiteState) :
    (s.resolveSite i st).headA = s.headA :=
  rfl
@[simp] theorem State.resolveSite_headB (s : State) (i : Nat) (st : SiteState) :
    (s.resolveSite i st).headB = s.headB :=
  rfl
@[simp] theorem State.resolveSite_records (s : State) (i : Nat) (st : SiteState) :
    (s.resolveSite i st).records = s.records :=
  rfl
@[simp] theorem State.resolveSite_verdicts (s : State) (i : Nat) (st : SiteState) :
    (s.resolveSite i st).verdicts = s.verdicts :=
  rfl
@[simp] theorem State.resolveSite_slot0 (s : State) (i : Nat) (st : SiteState) :
    (s.resolveSite i st).slot0 = s.slot0 :=
  rfl
@[simp] theorem State.resolveSite_slot1 (s : State) (i : Nat) (st : SiteState) :
    (s.resolveSite i st).slot1 = s.slot1 :=
  rfl
@[simp] theorem State.resolveSite_cell (s : State) (i : Nat) (st : SiteState) :
    (s.resolveSite i st).cell = s.cell :=
  rfl
@[simp] theorem State.resolveSite_portA (s : State) (i : Nat) (st : SiteState) :
    (s.resolveSite i st).portA = s.portA :=
  rfl
@[simp] theorem State.resolveSite_portB (s : State) (i : Nat) (st : SiteState) :
    (s.resolveSite i st).portB = s.portB :=
  rfl
@[simp] theorem State.resolveSite_blockSize (s : State) (i : Nat) (st : SiteState) :
    (s.resolveSite i st).blockSize = s.blockSize :=
  rfl
@[simp] theorem State.resolveSite_map_mode (s : State) (i : Nat) (st : SiteState) :
    (s.resolveSite i st).map.mode = s.map.mode :=
  rfl
@[simp] theorem State.resolveSite_map_generation (s : State) (i : Nat) (st : SiteState) :
    (s.resolveSite i st).map.generation = s.map.generation :=
  rfl
@[simp] theorem State.resolveSite_map_keepOut (s : State) (i : Nat) (st : SiteState) :
    (s.resolveSite i st).map.keepOut = s.map.keepOut :=
  rfl
@[simp] theorem State.resolveSite_map_pins (s : State) (i : Nat) (st : SiteState) :
    (s.resolveSite i st).map.pins = s.map.pins :=
  rfl
@[simp] theorem State.resolveSite_map_locks (s : State) (i : Nat) (st : SiteState) :
    (s.resolveSite i st).map.locks = s.map.locks :=
  rfl
@[simp] theorem State.resolveSite_head (s : State) (i : Nat) (st : SiteState) (k : Head) :
    (s.resolveSite i st).head k = s.head k :=
  by cases k <;> rfl
@[simp] theorem State.resolveSite_port (s : State) (i : Nat) (st : SiteState) (p : Port) :
    (s.resolveSite i st).port p = s.port p :=
  by cases p <;> rfl
@[simp] theorem State.resolveSite_pin (s : State) (i : Nat) (st : SiteState) (j : Nat) :
    (s.resolveSite i st).pin j = s.pin j :=
  rfl
@[simp] theorem State.resolveSite_record (s : State) (i : Nat) (st : SiteState) (j : Nat) :
    (s.resolveSite i st).record j = s.record j :=
  rfl
@[simp] theorem State.resolveSite_verdict (s : State) (i : Nat) (st : SiteState) (j : Nat) :
    (s.resolveSite i st).verdict j = s.verdict j :=
  rfl
@[simp] theorem State.resolveSite_slot (s : State) (i : Nat) (st : SiteState) (j : Nat) :
    (s.resolveSite i st).slot j = s.slot j :=
  rfl
@[simp] theorem State.resolveSite_locked (s : State) (i : Nat) (st : SiteState) (j : Nat) :
    (s.resolveSite i st).locked j = s.locked j :=
  rfl

@[simp] theorem State.setSiteState_pending (s : State) (i : Nat) (st : SiteState) :
    (s.setSiteState i st).pending = s.pending :=
  rfl
@[simp] theorem State.setSiteState_library (s : State) (i : Nat) (st : SiteState) :
    (s.setSiteState i st).library = s.library :=
  rfl
@[simp] theorem State.setSiteState_keep (s : State) (i : Nat) (st : SiteState) :
    (s.setSiteState i st).keep = s.keep :=
  rfl
@[simp] theorem State.setSiteState_headA (s : State) (i : Nat) (st : SiteState) :
    (s.setSiteState i st).headA = s.headA :=
  rfl
@[simp] theorem State.setSiteState_headB (s : State) (i : Nat) (st : SiteState) :
    (s.setSiteState i st).headB = s.headB :=
  rfl
@[simp] theorem State.setSiteState_records (s : State) (i : Nat) (st : SiteState) :
    (s.setSiteState i st).records = s.records :=
  rfl
@[simp] theorem State.setSiteState_verdicts (s : State) (i : Nat) (st : SiteState) :
    (s.setSiteState i st).verdicts = s.verdicts :=
  rfl
@[simp] theorem State.setSiteState_slot0 (s : State) (i : Nat) (st : SiteState) :
    (s.setSiteState i st).slot0 = s.slot0 :=
  rfl
@[simp] theorem State.setSiteState_slot1 (s : State) (i : Nat) (st : SiteState) :
    (s.setSiteState i st).slot1 = s.slot1 :=
  rfl
@[simp] theorem State.setSiteState_cell (s : State) (i : Nat) (st : SiteState) :
    (s.setSiteState i st).cell = s.cell :=
  rfl
@[simp] theorem State.setSiteState_portA (s : State) (i : Nat) (st : SiteState) :
    (s.setSiteState i st).portA = s.portA :=
  rfl
@[simp] theorem State.setSiteState_portB (s : State) (i : Nat) (st : SiteState) :
    (s.setSiteState i st).portB = s.portB :=
  rfl
@[simp] theorem State.setSiteState_blockSize (s : State) (i : Nat) (st : SiteState) :
    (s.setSiteState i st).blockSize = s.blockSize :=
  rfl
@[simp] theorem State.setSiteState_map_mode (s : State) (i : Nat) (st : SiteState) :
    (s.setSiteState i st).map.mode = s.map.mode :=
  rfl
@[simp] theorem State.setSiteState_map_generation (s : State) (i : Nat) (st : SiteState) :
    (s.setSiteState i st).map.generation = s.map.generation :=
  rfl
@[simp] theorem State.setSiteState_map_keepOut (s : State) (i : Nat) (st : SiteState) :
    (s.setSiteState i st).map.keepOut = s.map.keepOut :=
  rfl
@[simp] theorem State.setSiteState_map_pins (s : State) (i : Nat) (st : SiteState) :
    (s.setSiteState i st).map.pins = s.map.pins :=
  rfl
@[simp] theorem State.setSiteState_map_locks (s : State) (i : Nat) (st : SiteState) :
    (s.setSiteState i st).map.locks = s.map.locks :=
  rfl
@[simp] theorem State.setSiteState_head (s : State) (i : Nat) (st : SiteState) (k : Head) :
    (s.setSiteState i st).head k = s.head k :=
  by cases k <;> rfl
@[simp] theorem State.setSiteState_port (s : State) (i : Nat) (st : SiteState) (p : Port) :
    (s.setSiteState i st).port p = s.port p :=
  by cases p <;> rfl
@[simp] theorem State.setSiteState_pin (s : State) (i : Nat) (st : SiteState) (j : Nat) :
    (s.setSiteState i st).pin j = s.pin j :=
  rfl
@[simp] theorem State.setSiteState_record (s : State) (i : Nat) (st : SiteState) (j : Nat) :
    (s.setSiteState i st).record j = s.record j :=
  rfl
@[simp] theorem State.setSiteState_verdict (s : State) (i : Nat) (st : SiteState) (j : Nat) :
    (s.setSiteState i st).verdict j = s.verdict j :=
  rfl
@[simp] theorem State.setSiteState_slot (s : State) (i : Nat) (st : SiteState) (j : Nat) :
    (s.setSiteState i st).slot j = s.slot j :=
  rfl
@[simp] theorem State.setSiteState_locked (s : State) (i : Nat) (st : SiteState) (j : Nat) :
    (s.setSiteState i st).locked j = s.locked j :=
  rfl

@[simp] theorem State.setRecord_pending (s : State) (i : Nat) (r : PressRecord) :
    (s.setRecord i r).pending = s.pending :=
  rfl
@[simp] theorem State.setRecord_library (s : State) (i : Nat) (r : PressRecord) :
    (s.setRecord i r).library = s.library :=
  rfl
@[simp] theorem State.setRecord_keep (s : State) (i : Nat) (r : PressRecord) : (s.setRecord i r).keep = s.keep := rfl
@[simp] theorem State.setRecord_headA (s : State) (i : Nat) (r : PressRecord) : (s.setRecord i r).headA = s.headA := rfl
@[simp] theorem State.setRecord_headB (s : State) (i : Nat) (r : PressRecord) : (s.setRecord i r).headB = s.headB := rfl
@[simp] theorem State.setRecord_verdicts (s : State) (i : Nat) (r : PressRecord) :
    (s.setRecord i r).verdicts = s.verdicts :=
  rfl
@[simp] theorem State.setRecord_slot0 (s : State) (i : Nat) (r : PressRecord) : (s.setRecord i r).slot0 = s.slot0 := rfl
@[simp] theorem State.setRecord_slot1 (s : State) (i : Nat) (r : PressRecord) : (s.setRecord i r).slot1 = s.slot1 := rfl
@[simp] theorem State.setRecord_cell (s : State) (i : Nat) (r : PressRecord) : (s.setRecord i r).cell = s.cell := rfl
@[simp] theorem State.setRecord_portA (s : State) (i : Nat) (r : PressRecord) : (s.setRecord i r).portA = s.portA := rfl
@[simp] theorem State.setRecord_portB (s : State) (i : Nat) (r : PressRecord) : (s.setRecord i r).portB = s.portB := rfl
@[simp] theorem State.setRecord_blockSize (s : State) (i : Nat) (r : PressRecord) :
    (s.setRecord i r).blockSize = s.blockSize :=
  rfl
@[simp] theorem State.setRecord_map (s : State) (i : Nat) (r : PressRecord) : (s.setRecord i r).map = s.map := rfl
@[simp] theorem State.setRecord_site (s : State) (i : Nat) (r : PressRecord) (j : Nat) :
    (s.setRecord i r).site j = s.site j :=
  rfl
@[simp] theorem State.setRecord_pin (s : State) (i : Nat) (r : PressRecord) (j : Nat) :
    (s.setRecord i r).pin j = s.pin j :=
  rfl
@[simp] theorem State.setRecord_locked (s : State) (i : Nat) (r : PressRecord) (j : Nat) :
    (s.setRecord i r).locked j = s.locked j :=
  rfl
@[simp] theorem State.setRecord_verdict (s : State) (i : Nat) (r : PressRecord) (j : Nat) :
    (s.setRecord i r).verdict j = s.verdict j :=
  rfl
@[simp] theorem State.setRecord_slot (s : State) (i : Nat) (r : PressRecord) (j : Nat) :
    (s.setRecord i r).slot j = s.slot j :=
  rfl
@[simp] theorem State.setRecord_head (s : State) (i : Nat) (r : PressRecord) (k : Head) :
    (s.setRecord i r).head k = s.head k :=
  by cases k <;> rfl
@[simp] theorem State.setRecord_port (s : State) (i : Nat) (r : PressRecord) (p : Port) :
    (s.setRecord i r).port p = s.port p :=
  by cases p <;> rfl

@[simp] theorem State.writeVerdicts_pending (s : State) (x : Site) (f : Nat → PinVerdict → PinVerdict) :
    (s.writeVerdicts x f).pending = s.pending :=
  rfl
@[simp] theorem State.writeVerdicts_library (s : State) (x : Site) (f : Nat → PinVerdict → PinVerdict) :
    (s.writeVerdicts x f).library = s.library :=
  rfl
@[simp] theorem State.writeVerdicts_keep (s : State) (x : Site) (f : Nat → PinVerdict → PinVerdict) :
    (s.writeVerdicts x f).keep = s.keep :=
  rfl
@[simp] theorem State.writeVerdicts_headA (s : State) (x : Site) (f : Nat → PinVerdict → PinVerdict) :
    (s.writeVerdicts x f).headA = s.headA :=
  rfl
@[simp] theorem State.writeVerdicts_headB (s : State) (x : Site) (f : Nat → PinVerdict → PinVerdict) :
    (s.writeVerdicts x f).headB = s.headB :=
  rfl
@[simp] theorem State.writeVerdicts_records (s : State) (x : Site) (f : Nat → PinVerdict → PinVerdict) :
    (s.writeVerdicts x f).records = s.records :=
  rfl
@[simp] theorem State.writeVerdicts_slot0 (s : State) (x : Site) (f : Nat → PinVerdict → PinVerdict) :
    (s.writeVerdicts x f).slot0 = s.slot0 :=
  rfl
@[simp] theorem State.writeVerdicts_slot1 (s : State) (x : Site) (f : Nat → PinVerdict → PinVerdict) :
    (s.writeVerdicts x f).slot1 = s.slot1 :=
  rfl
@[simp] theorem State.writeVerdicts_cell (s : State) (x : Site) (f : Nat → PinVerdict → PinVerdict) :
    (s.writeVerdicts x f).cell = s.cell :=
  rfl
@[simp] theorem State.writeVerdicts_portA (s : State) (x : Site) (f : Nat → PinVerdict → PinVerdict) :
    (s.writeVerdicts x f).portA = s.portA :=
  rfl
@[simp] theorem State.writeVerdicts_portB (s : State) (x : Site) (f : Nat → PinVerdict → PinVerdict) :
    (s.writeVerdicts x f).portB = s.portB :=
  rfl
@[simp] theorem State.writeVerdicts_blockSize (s : State) (x : Site) (f : Nat → PinVerdict → PinVerdict) :
    (s.writeVerdicts x f).blockSize = s.blockSize :=
  rfl
@[simp] theorem State.writeVerdicts_map (s : State) (x : Site) (f : Nat → PinVerdict → PinVerdict) :
    (s.writeVerdicts x f).map = s.map :=
  rfl
@[simp] theorem State.writeVerdicts_site (s : State) (x : Site) (f : Nat → PinVerdict → PinVerdict) (j : Nat) :
    (s.writeVerdicts x f).site j = s.site j :=
  rfl
@[simp] theorem State.writeVerdicts_pin (s : State) (x : Site) (f : Nat → PinVerdict → PinVerdict) (j : Nat) :
    (s.writeVerdicts x f).pin j = s.pin j :=
  rfl
@[simp] theorem State.writeVerdicts_locked (s : State) (x : Site) (f : Nat → PinVerdict → PinVerdict) (j : Nat) :
    (s.writeVerdicts x f).locked j = s.locked j :=
  rfl
@[simp] theorem State.writeVerdicts_record (s : State) (x : Site) (f : Nat → PinVerdict → PinVerdict) (j : Nat) :
    (s.writeVerdicts x f).record j = s.record j :=
  rfl
@[simp] theorem State.writeVerdicts_slot (s : State) (x : Site) (f : Nat → PinVerdict → PinVerdict) (j : Nat) :
    (s.writeVerdicts x f).slot j = s.slot j :=
  rfl
@[simp] theorem State.writeVerdicts_head (s : State) (x : Site) (f : Nat → PinVerdict → PinVerdict) (k : Head) :
    (s.writeVerdicts x f).head k = s.head k :=
  by cases k <;> rfl
@[simp] theorem State.writeVerdicts_port (s : State) (x : Site) (f : Nat → PinVerdict → PinVerdict) (p : Port) :
    (s.writeVerdicts x f).port p = s.port p :=
  by cases p <;> rfl

@[simp] theorem State.setSlot_pending (s : State) (k : Nat) (w : WatchSlot) : (s.setSlot k w).pending = s.pending := by
  unfold State.setSlot; split <;> rfl
@[simp] theorem State.setSlot_map (s : State) (k : Nat) (w : WatchSlot) : (s.setSlot k w).map = s.map := by
  unfold State.setSlot; split <;> rfl
@[simp] theorem State.setSlot_library (s : State) (k : Nat) (w : WatchSlot) : (s.setSlot k w).library = s.library := by
  unfold State.setSlot; split <;> rfl
@[simp] theorem State.setSlot_keep (s : State) (k : Nat) (w : WatchSlot) : (s.setSlot k w).keep = s.keep := by
  unfold State.setSlot; split <;> rfl
@[simp] theorem State.setSlot_headA (s : State) (k : Nat) (w : WatchSlot) : (s.setSlot k w).headA = s.headA := by
  unfold State.setSlot; split <;> rfl
@[simp] theorem State.setSlot_headB (s : State) (k : Nat) (w : WatchSlot) : (s.setSlot k w).headB = s.headB := by
  unfold State.setSlot; split <;> rfl
@[simp] theorem State.setSlot_records (s : State) (k : Nat) (w : WatchSlot) : (s.setSlot k w).records = s.records := by
  unfold State.setSlot; split <;> rfl
@[simp] theorem State.setSlot_verdicts (s : State) (k : Nat) (w : WatchSlot) :
    (s.setSlot k w).verdicts = s.verdicts :=
  by
  unfold State.setSlot; split <;> rfl
@[simp] theorem State.setSlot_cell (s : State) (k : Nat) (w : WatchSlot) : (s.setSlot k w).cell = s.cell := by
  unfold State.setSlot; split <;> rfl
@[simp] theorem State.setSlot_portA (s : State) (k : Nat) (w : WatchSlot) : (s.setSlot k w).portA = s.portA := by
  unfold State.setSlot; split <;> rfl
@[simp] theorem State.setSlot_portB (s : State) (k : Nat) (w : WatchSlot) : (s.setSlot k w).portB = s.portB := by
  unfold State.setSlot; split <;> rfl
@[simp] theorem State.setSlot_blockSize (s : State) (k : Nat) (w : WatchSlot) :
    (s.setSlot k w).blockSize = s.blockSize :=
  by
  unfold State.setSlot; split <;> rfl

end Sys2Proof.Machine
end

