-- ==== Sys2Proof/Laws/Ports.lean ====
section
/-! SUPPORT. The Port Interface: everything that judging a frame can do, reading a reply, and forming a block. -/

namespace Sys2Proof.Machine

theorem portBusy_eq_true (u : PortUnit) : portBusy u = true ↔ ¬ portFree u := by
  cases hr : u.reply <;> cases ht : u.transfer <;> simp [portBusy, portFree, hr, ht]

theorem portBusy_eq_false (u : PortUnit) : portBusy u = false ↔ portFree u := by
  cases hr : u.reply <;> cases ht : u.transfer <;> simp [portBusy, portFree, hr, ht]

theorem State.discard_endReception (s : State) (p : Port) : (s.endReception p).discard p = s.withMark p := by
  cases p <;> rfl

theorem State.discard_beginTransaction (s : State) (p : Port) : (s.beginTransaction p).discard p = s.withMark p := by
  cases p <;> rfl

/-- Bytes that go on with a read go on with nothing left short. -/
theorem not_leftShort_of_read (u : PortUnit) (bytes : List Byte) (n : Nat)
    (h : readTransaction (clockedBytes u bytes) = .read n) : leftShort u = false := by
  unfold clockedBytes at h
  unfold leftShort
  split at h <;> simp_all
  rename_i got _
  cases got with
  | nil => simp [readTransaction]
  | cons t rest =>
    simp only [readTransaction, List.cons_append] at h ⊢
    split at h
    · exfalso
      unfold readWrite at h
      split at h
      · split at h
        · cases h
        · split at h
          · cases h
          · split at h <;> cases h
      · cases h
    · split at h <;> simp_all

/-- Everything that judging a request frame can do: discard it, answer it for the port, or hand it to its block. -/
theorem judgeFrame_cases (i : Instr) (p : Port) (body : State → State) (s : State) :
    (¬ portFree (s.port p) ∧ judgeFrame i p body s = s.withMark p) ∨
    (portFree (s.port p) ∧ 256 < frameLength i ∧ judgeFrame i p body s = s.withReply p 0x00 .frameError []) ∨
    (portFree (s.port p) ∧ frameLength i ≤ 256 ∧ codeListed p (requestCode i) = false ∧
      judgeFrame i p body s = s.withReply p (requestCode i) .unknown []) ∨
    (portFree (s.port p) ∧ frameLength i ≤ 256 ∧ codeListed p (requestCode i) = true ∧ lengthAgrees p i = false ∧
      judgeFrame i p body s = s.withReply p (requestCode i) .frameError []) ∨
    (portFree (s.port p) ∧ frameLength i ≤ 256 ∧ codeListed p (requestCode i) = true ∧ lengthAgrees p i = true ∧
      judgeFrame i p body s = body (s.beginTransaction p)) := by
  unfold judgeFrame
  by_cases hb : portBusy (s.port p) = true
  · exact .inl ⟨(portBusy_eq_true _).1 hb, by rw [if_pos hb, State.discard_beginTransaction]⟩
  · have hf : portFree (s.port p) := (portBusy_eq_false _).1 (by simpa using hb)
    rw [if_neg hb]
    by_cases hl : 256 < frameLength i
    · exact .inr (.inl ⟨hf, hl, by rw [if_pos hl, State.answer_beginTransaction]⟩)
    · rw [if_neg hl]
      cases hc : codeListed p (requestCode i)
      · exact .inr (.inr (.inl ⟨hf, by omega, rfl, by simp [State.answer_beginTransaction]⟩))
      · cases ha : lengthAgrees p i
        · exact .inr (.inr (.inr (.inl ⟨hf, by omega, rfl, rfl, by simp [State.answer_beginTransaction]⟩)))
        · exact .inr (.inr (.inr (.inr ⟨hf, by omega, rfl, rfl, by simp⟩)))

/-- On a free port a frame of the port's list with the right length is handed to its block. -/
theorem judgeFrame_taken (i : Instr) (p : Port) (body : State → State) (s : State) (hf : portFree (s.port p))
    (hl : frameLength i ≤ 256) (hc : codeListed p (requestCode i) = true) (ha : lengthAgrees p i = true) :
    judgeFrame i p body s = body (s.beginTransaction p) := by
  have hb : portBusy (s.port p) = false := (portBusy_eq_false _).2 hf
  unfold judgeFrame
  simp [hb, hc, ha]
  omega

/-- On a free port a request of the port's list with the right length is answered by its block, in a single reply. -/
theorem receive_taken (i : Instr) (p : Port) (body : State → Answer) (s : State) (hf : portFree (s.port p))
    (hl : frameLength i ≤ 256) (hc : codeListed p (requestCode i) = true) (ha : lengthAgrees p i = true) :
    receive i p body s =
      (body (s.beginTransaction p)).1.answer p (requestCode i) (body (s.beginTransaction p)).2.1
        (body (s.beginTransaction p)).2.2 :=
  judgeFrame_taken i p _ s hf hl hc ha

/-- A busy port discards a frame that is judged. -/
theorem judgeFrame_busy (i : Instr) (p : Port) (body : State → State) (s : State) (hb : ¬ portFree (s.port p)) :
    judgeFrame i p body s = s.withMark p := by
  unfold judgeFrame
  rw [if_pos ((portBusy_eq_true _).2 hb), State.discard_beginTransaction]

/-- A write left short in reception counts as a discarded frame before the next transaction. -/
theorem State.beginTransaction_withMark (s : State) (p : Port) (h : leftShort (s.port p) = true) :
    (s.withMark p).beginTransaction p = s.beginTransaction p := by
  cases p <;> simp_all [State.beginTransaction, State.withMark, State.modPort, State.port, leftShort]

/-- So it does before a frame is judged. -/
theorem judgeFrame_withMark (i : Instr) (p : Port) (body : State → State) (s : State) (h : leftShort (s.port p) = true) :
    judgeFrame i p body (s.withMark p) = judgeFrame i p body s := by
  unfold judgeFrame
  rw [State.beginTransaction_withMark s p h, show portBusy ((s.withMark p).port p) = portBusy (s.port p) by cases p <;> rfl]

/-- Where nothing is left short, judging a frame clears the reception and nothing more. -/
theorem judgeFrame_endReception (i : Instr) (p : Port) (body : State → State) (s : State)
    (h : leftShort (s.port p) = false) : judgeFrame i p body (s.endReception p) = judgeFrame i p body s := by
  unfold judgeFrame
  rw [State.beginTransaction_endReception, State.beginTransaction_of_not_leftShort s p h,
    show portBusy ((s.endReception p).port p) = portBusy (s.port p) by cases p <;> rfl]

/-- A block depends on no port: what a change of one port leaves, it reads as before. -/
theorem nextBlock_modPort (s : State) (p : Port) (f : PortUnit → PortUnit) (t : Transfer) (st : Status) :
    nextBlock (s.modPort p f) t st = nextBlock s t st := by cases p <;> rfl

theorem advanceTransfer_modPort (s : State) (p : Port) (f : PortUnit → PortUnit) (t : Transfer) :
    advanceTransfer (s.modPort p f) t = advanceTransfer s t := by cases p <;> rfl

theorem State.clocked_eq (s : State) (p : Port) (bytes : List Byte) :
    s.clocked p bytes = clockedBytes (s.port p) bytes := rfl

/-- A read short of the frame's last byte: what it clocked out and what is in reception, and nothing else. -/
theorem State.readBytes_short (s : State) (p : Port) (n : Nat) (going : Option Reception)
    (h : n < (frameOut (s.port p)).length) :
    s.readBytes p n going =
      s.modPort p (fun u => { u with wire := (frameOut u).take n, reception := going }) := if_pos h

/-- A read of the whole frame: as REPLY_READ, with 00 for the bytes beyond it. -/
theorem State.readBytes_whole (s : State) (p : Port) (n : Nat) (going : Option Reception)
    (h : (frameOut (s.port p)).length ≤ n) :
    s.readBytes p n going =
      ((s.endReception p).readReply p).modPort p (fun u =>
        { u with wire := u.wire ++ List.replicate (n - u.wire.length) 0x00 }) := if_neg (Nat.not_lt.2 h)

/-- Bytes of a transaction that RESTART has dropped: none of them is judged. -/
theorem transact_lapsed (p : Port) (ended read : Bool) (bytes : List Byte) (s : State)
    (h : (s.port p).reception = some (.lapsed read)) :
    transact p ended bytes s = .next (s.modPort p (takeNothing ended bytes.length)) := by
  unfold transact
  rw [State.clocked_eq, clockedBytes, h]
  rfl

theorem takeNothing_queue (ended : Bool) (n : Nat) (u : PortUnit) : (takeNothing ended n u).queue = u.queue := by
  unfold takeNothing; split <;> rfl

/-- Bytes of which the port takes nothing change nothing but its reception and, of a dropped read, what it clocks out. -/
theorem takeNothing_eq (ended : Bool) (n : Nat) (u : PortUnit) :
    takeNothing ended n u =
      { u with wire := (takeNothing ended n u).wire, reception := (takeNothing ended n u).reception } := by
  unfold takeNothing; split <;> rfl

/-- What reading the pending reply can do. -/
theorem State.readReply_cases (s : State) (p : Port) :
    ((s.port p).reply = none ∧ s.readReply p = s.modPort p (fun u => { u with wire := [0x00, 0x00] })) ∨
    (∃ r t, (s.port p).reply = some r ∧ r.more = true ∧ (s.port p).transfer = some t ∧
      s.readReply p = s.modPort p (fun u =>
        { u with
            wire := replyBytes r u.discarded, discarded := false, reply := some (nextBlock s t .ok),
            transfer := some (advanceTransfer s t) })) ∨
    (∃ r, (s.port p).reply = some r ∧ r.more = true ∧ (s.port p).transfer = none ∧
      s.readReply p = s.modPort p (fun u =>
        { u with wire := replyBytes r u.discarded, discarded := false, reply := none })) ∨
    (∃ r, (s.port p).reply = some r ∧ r.more = false ∧
      s.readReply p = s.modPort p (fun u =>
        { u with wire := replyBytes r u.discarded, discarded := false, reply := none, transfer := none })) := by
  unfold State.readReply
  cases hr : (s.port p).reply with
  | none => exact .inl ⟨rfl, rfl⟩
  | some r =>
    cases hm : r.more with
    | false => exact .inr (.inr (.inr ⟨r, rfl, hm, by simp only [hm]⟩))
    | true =>
      cases ht : (s.port p).transfer with
      | none => exact .inr (.inr (.inl ⟨r, rfl, hm, rfl, by simp only [hm]⟩))
      | some t => exact .inr (.inl ⟨r, t, rfl, hm, rfl, by simp only [hm]; cases p <;> rfl⟩)

end Sys2Proof.Machine
end

