-- ==== Sys2Proof/Laws/Keeps.lean ====
section
/-! SUPPORT. A law of the state that each shared operation keeps is kept by every command and by every step. -/

namespace Sys2Proof.Machine

/-- A request frame is handed to the meaning that exec gives its request. -/
theorem handRequest_eq_exec (i : Instr) (p : Port) (s : State) (h : requestPort i = some p) :
    handRequest i s = exec i s := by
  cases i <;> simp [requestPort] at h <;> rfl

/-- A law that a change of a port which leaves its queue as it was, the passing of a microsecond, and the meaning of each command
keep. -/
structure Keeps (L : State → Prop) : Prop where
  port : ∀ s p f, (∀ u : PortUnit, (f u).queue = u.queue) → L s → L (s.modPort p f)
  rest : ∀ s q, L s → L { s with pending := q }
  tick : ∀ s, L s → L (tick s)
  hardReset : ∀ s : State, L s →
    L { State.reset with pending := s.pending, headA := resetHead .a s.headA, headB := resetHead .b s.headB }
  restart : ∀ s, L s → L s.restarted
  setBlock : ∀ size s, L s → L (setBlockBody size s).1
  fetchNotice : ∀ p s, L s → L (fetchNoticeBody p s).1
  mapEdit : ∀ s, L s → L (mapEditBody s).1
  mapActivate : ∀ s, L s → L (mapActivateBody s).1
  writeSite : ∀ site f s, L s → L (writeSiteBody site f s).1
  clearSite : ∀ site s, L s → L (clearSiteBody site s).1
  writePins : ∀ first count entries s, L s → entries.length = count.toNat →
    L (writePinsBody first count entries s).1
  setKeepout : ∀ distance s, L s → L (setKeepoutBody distance s).1
  lockSites : ∀ first count s, L s → L (lockSitesBody first count s).1
  unlockSites : ∀ first count s, L s → L (unlockSitesBody first count s).1
  disposeSite : ∀ site s, L s → L (disposeSiteBody site s).1
  writeProfile : ∀ pinType holeClass count seatForce points s, L s → points.length = count.toNat →
    L (writeProfileBody pinType holeClass count seatForce points s).1
  clearProfile : ∀ pinType holeClass s, L s → L (clearProfileBody pinType holeClass s).1
  copyBank : ∀ s, L s → L (copyBankBody s).1
  swapBanks : ∀ s, L s → L (swapBanksBody s).1
  setTool : ∀ head laneCount toolCode lanes s, L s → lanes.length = laneCount.toNat →
    L (setToolBody head laneCount toolCode lanes s).1
  setHead : ∀ head setting value s, L s → L (setHeadBody head setting value s).1
  keepSettings : ∀ value s, L s → L (keepSettingsBody value s).1
  setLine : ∀ head line value s, L s → L (setLineBody head line value s).1
  claim : ∀ site kind wait h s, L s → L (claimBody site kind wait h s).1
  release : ∀ h s, L s → L (releaseBody h s).1
  cancelWait : ∀ h s, L s → L (cancelWaitBody h s).1
  arm : ∀ h s, L s → L (armBody h s).1
  start : ∀ h s, L s → L (startBody h s).1
  abort : ∀ h s, L s → L (abortBody h s).1
  resume : ∀ h s, L s → L (resumeBody h s).1
  headClear : ∀ h s, L s → L (headClearBody h s).1
  armWatch : ∀ slot site lane s, L s → L (armWatchBody slot site lane s).1
  disarmWatch : ∀ slot s, L s → L (disarmWatchBody slot s).1
  frame : ∀ h f s, L s → L (s.acceptFrame h f)
  idle : ∀ h s, L s → L (s.linkIdle h)
  silence : ∀ h s t, L s → execSilenceTimerExpiry h s = .next t → L t
  dwell : ∀ h s t, L s → execDwellTimerExpiry h s = .next t → L t
  pulse : ∀ h s, L s → L (s.modLines h (fun l => { l with pulse := none }))
  completion : ∀ h s, L s → L (s.completeComposition h)
  reevaluation : ∀ h s w, L s → (s.head h).waiting = some w → L (s.reevaluate h w)
  interlock : ∀ h level s, L s →
    L ((s.modLines h (fun l => { l with interlockHigh := level })).interlockMoved h (interlockActive (s.head h)))

namespace Keeps

variable {L : State → Prop} (k : Keeps L)
include k

theorem mark {s : State} (p : Port) (hs : L s) : L (s.withMark p) := k.port s p _ (fun _ => rfl) hs

theorem reply {s : State} (p : Port) (code : Byte) (status : Status) (payload : List Byte) (hs : L s) :
    L (s.withReply p code status payload) := k.port s p _ (fun _ => rfl) hs

theorem answer {s : State} (p : Port) (code : Byte) (status : Status) (payload : List Byte) (hs : L s) :
    L (s.answer p code status payload) := k.port s p _ (fun _ => rfl) hs

theorem reception {s : State} (p : Port) (hs : L s) : L (s.endReception p) := k.port s p _ (fun _ => rfl) hs

theorem begun {s : State} (p : Port) (hs : L s) : L (s.beginTransaction p) := k.port s p _ (fun _ => rfl) hs

theorem judge (i : Instr) (p : Port) (body : State → State) (s : State) (hs : L s)
    (hb : lengthAgrees p i = true → ∀ u, L u → L (body u)) : L (judgeFrame i p body s) := by
  rcases judgeFrame_cases i p body s with ⟨_, h⟩ | ⟨_, _, h⟩ | ⟨_, _, _, h⟩ | ⟨_, _, _, _, h⟩ | ⟨_, _, _, ha, h⟩
  · rw [h]; exact k.mark p hs
  · rw [h]; exact k.reply p _ _ _ hs
  · rw [h]; exact k.reply p _ _ _ hs
  · rw [h]; exact k.reply p _ _ _ hs
  · rw [h]; exact hb ha _ (k.begun p hs)

theorem request (i : Instr) (p : Port) (body : State → Answer) (s : State) (hs : L s)
    (hb : lengthAgrees p i = true → ∀ u, L u → L (body u).1) : L (receive i p body s) :=
  k.judge i p _ s hs (fun ha u hu => k.answer p _ _ _ (hb ha u hu))

omit k in
theorem named (p : Port) (head : Option Byte) (body : Head → State → Answer) (s : State) (hs : L s)
    (hb : ∀ h u, L u → L (body h u).1) : L (onNamedHead p head body s).1 := by
  unfold onNamedHead
  split
  · exact hb _ _ hs
  · exact hs

omit k in
theorem own (p : Port) (body : Head → State → Answer) (s : State) (hs : L s)
    (hb : ∀ h u, L u → L (body h u).1) : L (onHead p body s).1 := by
  unfold onHead
  split
  · exact hb _ _ hs
  · exact hs

theorem opened (s : State) (p : Port) (kind : TransferKind) (count : Nat) (clamped : Bool) (hs : L s) :
    L (s.openTransfer p kind count clamped) := by
  unfold State.openTransfer State.formBlock
  exact k.port s p _ (fun _ => rfl) hs

theorem read (s : State) (p : Port) (hs : L s) : L (s.readReply p) := by
  rcases s.readReply_cases p with ⟨_, h⟩ | ⟨_, _, _, _, _, h⟩ | ⟨_, _, _, _, h⟩ | ⟨_, _, _, h⟩ <;>
    · rw [h]; exact k.port s p _ (fun _ => rfl) hs

theorem readSome (s : State) (p : Port) (n : Nat) (going : Option Reception) (hs : L s) :
    L (s.readBytes p n going) := by
  unfold State.readBytes
  split
  · exact k.port s p _ (fun _ => rfl) hs
  · exact k.port _ p _ (fun _ => rfl) (k.read _ p (k.reception p hs))

/-- The meaning of a request keeps the law. -/
theorem hand (i : Instr) (s t : State) (hs : L s) (h : handRequest i s = .next t) : L t := by
  cases i <;> simp only [handRequest] at h
  case identify p =>
    obtain rfl := Host.Outcome.next.inj h
    exact k.request _ _ _ _ hs (fun _ _ hu => hu)
  case fetchNotice p =>
    obtain rfl := Host.Outcome.next.inj h
    exact k.request _ _ _ _ hs (fun _ u hu => k.fetchNotice p u hu)
  case headStatus p b =>
    obtain rfl := Host.Outcome.next.inj h
    exact k.request _ _ _ _ hs (fun _ u hu => named p b _ u hu (fun _ _ hv => hv))
  case readRecord p site =>
    obtain rfl := Host.Outcome.next.inj h
    refine k.request _ _ _ _ hs (fun _ u hu => ?_); unfold readRecordBody; split <;> exact hu
  case restart p =>
    cases p
    · obtain rfl := Host.Outcome.next.inj h
      exact k.answer _ _ _ _ (k.restart s hs)
    · obtain rfl := Host.Outcome.next.inj h
      exact k.request _ _ _ _ hs (fun _ _ hu => hu)
    · obtain rfl := Host.Outcome.next.inj h
      exact k.request _ _ _ _ hs (fun _ _ hu => hu)
  case setBlock p size =>
    obtain rfl := Host.Outcome.next.inj h
    exact k.request _ _ _ _ hs (fun _ u hu => k.setBlock size u hu)
  case endTransfer p =>
    unfold execEndTransfer at h
    split at h <;> simp only [Host.Outcome.next.injEq] at h <;> subst h
    · exact k.answer _ _ _ _ (k.port _ _ _ (fun _ => rfl) (k.begun _ hs))
    · exact k.request _ _ _ _ hs (fun _ _ hu => hu)
  case mapEdit p =>
    obtain rfl := Host.Outcome.next.inj h
    exact k.request _ _ _ _ hs (fun _ u hu => k.mapEdit u hu)
  case mapActivate p =>
    obtain rfl := Host.Outcome.next.inj h
    exact k.request _ _ _ _ hs (fun _ u hu => k.mapActivate u hu)
  case writeSite p site f =>
    obtain rfl := Host.Outcome.next.inj h
    exact k.request _ _ _ _ hs (fun _ u hu => k.writeSite site f u hu)
  case clearSite p site =>
    obtain rfl := Host.Outcome.next.inj h
    exact k.request _ _ _ _ hs (fun _ u hu => k.clearSite site u hu)
  case writePins p first count entries =>
    obtain rfl := Host.Outcome.next.inj h
    exact k.request _ _ _ _ hs (fun ha u hu => k.writePins first count entries u hu (by simpa [lengthAgrees] using ha))
  case setKeepout p d =>
    obtain rfl := Host.Outcome.next.inj h
    exact k.request _ _ _ _ hs (fun _ u hu => k.setKeepout d u hu)
  case lockSites p a b =>
    obtain rfl := Host.Outcome.next.inj h
    exact k.request _ _ _ _ hs (fun _ u hu => k.lockSites a b u hu)
  case unlockSites p a b =>
    obtain rfl := Host.Outcome.next.inj h
    exact k.request _ _ _ _ hs (fun _ u hu => k.unlockSites a b u hu)
  case disposeSite p site =>
    obtain rfl := Host.Outcome.next.inj h
    exact k.request _ _ _ _ hs (fun _ u hu => k.disposeSite site u hu)
  case writeProfile p a b c d e =>
    obtain rfl := Host.Outcome.next.inj h
    exact k.request _ _ _ _ hs (fun ha u hu => k.writeProfile a b c d e u hu (by simpa [lengthAgrees] using ha))
  case clearProfile p a b =>
    obtain rfl := Host.Outcome.next.inj h
    exact k.request _ _ _ _ hs (fun _ u hu => k.clearProfile a b u hu)
  case copyBank p =>
    obtain rfl := Host.Outcome.next.inj h
    exact k.request _ _ _ _ hs (fun _ u hu => k.copyBank u hu)
  case readProfile p a b c =>
    obtain rfl := Host.Outcome.next.inj h
    refine k.request _ _ _ _ hs (fun _ u hu => ?_); unfold readProfileBody
    split
    · exact hu
    · split <;> exact hu
  case swapBanks p =>
    obtain rfl := Host.Outcome.next.inj h
    exact k.request _ _ _ _ hs (fun _ u hu => k.swapBanks u hu)
  case setTool p a b c d =>
    obtain rfl := Host.Outcome.next.inj h
    exact k.request _ _ _ _ hs (fun ha u hu => k.setTool a b c d u hu (by simpa [lengthAgrees] using ha))
  case setHead p a b c =>
    obtain rfl := Host.Outcome.next.inj h
    exact k.request _ _ _ _ hs (fun _ u hu => k.setHead a b c u hu)
  case keepSettings p v =>
    obtain rfl := Host.Outcome.next.inj h
    exact k.request _ _ _ _ hs (fun _ u hu => k.keepSettings v u hu)
  case setLine p a b c =>
    obtain rfl := Host.Outcome.next.inj h
    exact k.request _ _ _ _ hs (fun _ u hu => k.setLine a b c u hu)
  case claim p a b c =>
    obtain rfl := Host.Outcome.next.inj h
    exact k.request _ _ _ _ hs (fun _ u hu => own p _ u hu (fun hd v hv => k.claim a b c hd v hv))
  case release p =>
    obtain rfl := Host.Outcome.next.inj h
    exact k.request _ _ _ _ hs (fun _ u hu => own p _ u hu (fun hd v hv => k.release hd v hv))
  case cancelWait p =>
    obtain rfl := Host.Outcome.next.inj h
    exact k.request _ _ _ _ hs (fun _ u hu => own p _ u hu (fun hd v hv => k.cancelWait hd v hv))
  case arm p =>
    obtain rfl := Host.Outcome.next.inj h
    exact k.request _ _ _ _ hs (fun _ u hu => own p _ u hu (fun hd v hv => k.arm hd v hv))
  case start p =>
    obtain rfl := Host.Outcome.next.inj h
    exact k.request _ _ _ _ hs (fun _ u hu => own p _ u hu (fun hd v hv => k.start hd v hv))
  case abort p b =>
    obtain rfl := Host.Outcome.next.inj h
    exact k.request _ _ _ _ hs (fun _ u hu => named p b _ u hu (fun hd v hv => k.abort hd v hv))
  case resume p b =>
    obtain rfl := Host.Outcome.next.inj h
    exact k.request _ _ _ _ hs (fun _ u hu => named p b _ u hu (fun hd v hv => k.resume hd v hv))
  case headClear p b =>
    obtain rfl := Host.Outcome.next.inj h
    exact k.request _ _ _ _ hs (fun _ u hu => named p b _ u hu (fun hd v hv => k.headClear hd v hv))
  case readPins p a b c =>
    obtain rfl := Host.Outcome.next.inj h
    refine k.judge _ _ _ _ hs (fun _ u hu => ?_); unfold readPinsBody
    split
    · exact k.answer _ _ _ _ hu
    · split
      · exact k.answer _ _ _ _ hu
      · split
        · exact k.answer _ _ _ _ hu
        · exact k.opened _ _ _ _ _ hu
  case readSites p a b =>
    obtain rfl := Host.Outcome.next.inj h
    refine k.judge _ _ _ _ hs (fun _ u hu => ?_); unfold readSitesBody
    split
    · exact k.answer _ _ _ _ hu
    · exact k.opened _ _ _ _ _ hu
  case armWatch p a b c =>
    obtain rfl := Host.Outcome.next.inj h
    exact k.request _ _ _ _ hs (fun _ u hu => k.armWatch a b c u hu)
  case disarmWatch p a =>
    obtain rfl := Host.Outcome.next.inj h
    exact k.request _ _ _ _ hs (fun _ u hu => k.disarmWatch a u hu)
  case readTrace p a =>
    obtain rfl := Host.Outcome.next.inj h
    refine k.judge _ _ _ _ hs (fun _ u hu => ?_); unfold readTraceBody
    split
    · exact k.answer _ _ _ _ hu
    · split
      · exact k.answer _ _ _ _ hu
      · exact k.answer _ _ _ _ hu
      · exact k.answer _ _ _ _ hu
      · exact k.opened _ _ _ _ _ hu
  all_goals (obtain rfl := Host.Outcome.next.inj h; exact hs)

theorem transaction (p : Port) (ended : Bool) (bytes : List Byte) (s t : State) (hs : L s)
    (h : transact p ended bytes s = .next t) : L t := by
  unfold transact at h
  split at h
  · simp only [Host.Outcome.next.injEq] at h; subst h; exact k.port s p _ (takeNothing_queue _ _) hs
  · simp only [Host.Outcome.next.injEq] at h; subst h; exact k.readSome _ _ _ _ hs
  · simp only [Host.Outcome.next.injEq] at h; subst h
    unfold State.cutShort
    split
    · rw [State.discard_endReception]; exact k.mark p hs
    · exact k.port s p _ (fun _ => rfl) hs
  · simp only [Host.Outcome.next.injEq] at h; subst h
    unfold State.badLength
    split
    · rw [State.discard_endReception]; exact k.mark p hs
    · exact k.answer _ _ _ _ (k.reception p hs)
  · split at h
    · exact k.hand _ _ t (k.reception p hs) h
    · simp only [Host.Outcome.next.injEq] at h; subst h
      unfold State.unspelled
      split
      · rw [State.discard_endReception]; exact k.mark p hs
      · split <;> exact k.answer _ _ _ _ (k.reception p hs)

/-- Every command keeps the law. -/
theorem exec (i : Instr) (s t : State) (hs : L s) (h : exec i s = .next t) : L t := by
  cases i
  case hardReset =>
    simp only [Machine.exec, execHardReset, Host.Outcome.next.injEq] at h; subst h; exact k.hardReset s hs
  case discardedFrame p bytes => exact k.transaction p _ bytes s t hs h
  case incompleteFrame p bytes => exact k.transaction p _ bytes s t hs h
  case unknown p bytes => exact k.transaction p _ bytes s t hs h
  case replyRead p =>
    simp only [Machine.exec, execReplyRead, Host.Outcome.next.injEq] at h; subst h; exact k.read _ p (k.begun p hs)
  case sampleFrame hd bytes =>
    simp only [Machine.exec, execSampleFrame] at h
    split at h
    · simp only [Host.Outcome.next.injEq] at h; subst h; exact k.idle _ s hs
    · split at h
      · split at h <;> simp only [Host.Outcome.next.injEq] at h <;> subst h
        · exact hs
        · exact k.frame _ _ _ hs
      · simp only [Host.Outcome.next.injEq] at h; subst h; exact hs
  case silenceTimerExpiry hd => exact k.silence hd s t hs h
  case dwellTimerExpiry hd => exact k.dwell hd s t hs h
  case markPulseEnd hd =>
    simp only [Machine.exec, execMarkPulseEnd] at h
    split at h <;> simp only [Host.Outcome.next.injEq] at h <;> subst h
    · exact k.pulse hd s hs
    · exact hs
  case compositionCompletion hd =>
    simp only [Machine.exec, execCompositionCompletion, Host.Outcome.next.injEq] at h; subst h; exact k.completion hd s hs
  case reevaluation hd =>
    simp only [Machine.exec, execReevaluation] at h
    split at h
    · split at h <;> simp only [Host.Outcome.next.injEq] at h <;> subst h
      · exact k.reevaluation hd s _ hs (by assumption)
      · exact hs
    · simp only [Host.Outcome.next.injEq] at h; subst h; exact hs
  case interlockChange hd level =>
    simp only [Machine.exec, execInterlockChange, Host.Outcome.next.injEq] at h; subst h; exact k.interlock hd level s hs
  all_goals exact k.hand _ s t hs ((handRequest_eq_exec _ _ s rfl).trans h)

/-- Every step keeps the law. -/
theorem step (s t : State) (hs : L s) (h : step s = .next t) : L t := by
  unfold Machine.step at h
  split at h
  · simp only [Host.Outcome.next.injEq] at h; subst h; exact k.tick s hs
  · exact k.exec _ _ _ (k.rest s _ hs) h

end Keeps

end Sys2Proof.Machine
end

