-- ==== Sys2Proof/Laws/Tables.lean ====
section
/-! SUPPORT. The sparse tables: what is read after a write, and that every write keeps the canonical form. -/

namespace Sys2Proof.Machine

theorem Table.get_erase {α : Type} (d : α) (t : Table α) (k j : Nat) :
    Table.get d (Table.erase t k) j = if j = k then d else Table.get d t j := by
  induction t with
  | nil => simp [Table.erase, Table.get]
  | cons e t ih =>
    obtain ⟨k', v⟩ := e
    simp only [Table.erase] at ih ⊢
    by_cases hk : k' = k
    · subst hk
      simp only [List.filter_cons, bne_self_eq_false, Bool.false_eq_true, if_false, ih, Table.get]
      by_cases hj : j = k'
      · simp [hj]
      · simp [hj, Ne.symm hj]
    · simp only [List.filter_cons, bne_iff_ne, ne_eq, hk, not_false_eq_true, if_true, Table.get, ih]
      by_cases hj : k' = j
      · subst hj; simp [hk]
      · simp [hj]

theorem Table.get_insert {α : Type} (d : α) (t : Table α) (k j : Nat) (v : α) (h : ∀ e ∈ t, e.1 ≠ k) :
    Table.get d (Table.insert t k v) j = if j = k then v else Table.get d t j := by
  induction t with
  | nil =>
    by_cases hj : j = k
    · simp [Table.insert, Table.get, hj]
    · simp [Table.insert, Table.get, hj, Ne.symm hj]
  | cons e t ih =>
    obtain ⟨k', v'⟩ := e
    have hk : k' ≠ k := h (k', v') (by simp)
    have ih := ih (fun e he => h e (by simp [he]))
    simp only [Table.insert]
    split
    · simp only [Table.get]
      by_cases hj : k = j
      · simp [hj]
      · simp [hj, Ne.symm hj]
    · simp only [Table.get, ih]
      by_cases hj : k' = j
      · subst hj; simp [hk]
      · simp [hj]

/-- Every write of an entry reads back, and leaves every other entry. -/
theorem Table.get_set {α : Type} [DecidableEq α] (d : α) (t : Table α) (k j : Nat) (v : α) :
    Table.get d (Table.set d t k v) j = if j = k then v else Table.get d t j := by
  unfold Table.set
  split
  · rename_i hv; rw [Table.get_erase]; simp [hv]
  · rw [Table.get_insert _ _ _ _ _ (by simp [Table.erase]), Table.get_erase]
    by_cases hj : j = k <;> simp [hj]

/-- A run of writes changes the entries of the run alone, each from its value before. -/
theorem Table.get_update {α : Type} [DecidableEq α] (d : α) (n : Nat) :
    ∀ (t : Table α) (lo : Nat) (f : Nat → α → α) (j : Nat),
      Table.get d (Table.update d t lo n f) j =
        if lo ≤ j ∧ j < lo + n then f j (Table.get d t j) else Table.get d t j := by
  induction n with
  | zero => intro t lo f j; simp [Table.update]
  | succ n ih =>
    intro t lo f j
    simp only [Table.update, ih, Table.get_set]
    by_cases h0 : j = lo
    · subst h0; simp
    · by_cases h1 : lo + 1 ≤ j ∧ j < lo + 1 + n
      · simp [h0, h1, show lo ≤ j ∧ j < lo + (n + 1) by omega]
      · rw [if_neg h1, if_neg h0, if_neg (by omega)]

theorem Table.wf_erase {α : Type} [DecidableEq α] (d : α) (t : Table α) (k : Nat) (h : Table.wf d t = true) :
    Table.wf d (Table.erase t k) = true := by
  induction t with
  | nil => rfl
  | cons e t ih =>
    obtain ⟨k', v⟩ := e
    simp only [Table.wf, Bool.and_eq_true, decide_eq_true_eq, List.all_eq_true] at h
    have ih := ih h.2
    simp only [Table.erase, List.filter_cons] at ih ⊢
    split
    · simp only [Table.wf, Bool.and_eq_true, decide_eq_true_eq, List.all_eq_true]
      exact ⟨⟨h.1.1, fun e he => h.1.2 e (List.mem_of_mem_filter he)⟩, ih⟩
    · exact ih

theorem Table.mem_insert {α : Type} (t : Table α) (k : Nat) (v : α) (e : Nat × α) :
    e ∈ Table.insert t k v ↔ e = (k, v) ∨ e ∈ t := by
  induction t with
  | nil => simp [Table.insert]
  | cons e' t ih =>
    obtain ⟨k', v'⟩ := e'
    simp only [Table.insert]
    split <;> simp [ih]
    tauto

theorem Table.wf_insert {α : Type} [DecidableEq α] (d : α) (t : Table α) (k : Nat) (v : α) (hv : v ≠ d)
    (hk : ∀ e ∈ t, e.1 ≠ k) (h : Table.wf d t = true) : Table.wf d (Table.insert t k v) = true := by
  induction t with
  | nil => simp [Table.insert, Table.wf, hv]
  | cons e t ih =>
    obtain ⟨k', v'⟩ := e
    have hk' : k' ≠ k := hk (k', v') (by simp)
    have h0 := h
    simp only [Table.wf, Bool.and_eq_true, decide_eq_true_eq, List.all_eq_true] at h
    simp only [Table.insert]
    split
    · rename_i hlt
      simp only [Table.wf, Bool.and_eq_true, decide_eq_true_eq, List.all_eq_true]
      refine ⟨⟨hv, ?_⟩, by simpa [Table.wf] using h⟩
      intro e he
      rcases List.mem_cons.1 he with rfl | he
      · exact hlt
      · exact Nat.lt_trans hlt (h.1.2 e he)
    · rename_i hlt
      simp only [Table.wf, Bool.and_eq_true, decide_eq_true_eq, List.all_eq_true]
      refine ⟨⟨h.1.1, ?_⟩, ih (fun e he => hk e (by simp [he])) h.2⟩
      intro e he
      rcases (Table.mem_insert t k v e).1 he with rfl | he
      · show k' < k; omega
      · exact h.1.2 e he

/-- Every write keeps the canonical form. -/
theorem Table.wf_set {α : Type} [DecidableEq α] (d : α) (t : Table α) (k : Nat) (v : α) (h : Table.wf d t = true) :
    Table.wf d (Table.set d t k v) = true := by
  unfold Table.set
  split
  · exact Table.wf_erase d t k h
  · rename_i hv
    exact Table.wf_insert d _ k v hv (by simp [Table.erase]) (Table.wf_erase d t k h)

/-- Every run of writes keeps the canonical form. -/
theorem Table.wf_update {α : Type} [DecidableEq α] (d : α) (n : Nat) :
    ∀ (t : Table α) (lo : Nat) (f : Nat → α → α), Table.wf d t = true → Table.wf d (Table.update d t lo n f) = true := by
  induction n with
  | zero => intro t lo f h; exact h
  | succ n ih => intro t lo f h; exact ih _ _ _ (Table.wf_set d t lo _ h)

/-- What stands in a table after a write stood there before, or is the value written. -/
theorem Table.mem_set {α : Type} [DecidableEq α] (d : α) (t : Table α) (k : Nat) (v : α) (e : Nat × α)
    (h : e ∈ Table.set d t k v) : e = (k, v) ∨ e ∈ t := by
  unfold Table.set at h
  split at h
  · exact .inr (List.mem_of_mem_filter h)
  · rcases (Table.mem_insert _ k v e).1 h with h | h
    · exact .inl h
    · exact .inr (List.mem_of_mem_filter h)

/-- An entry that is not listed reads as the reset value, and a listed one is listed. -/
theorem Table.get_eq_or_mem {α : Type} (d : α) (t : Table α) (k : Nat) :
    Table.get d t k = d ∨ (k, Table.get d t k) ∈ t := by
  induction t with
  | nil => exact .inl rfl
  | cons e t ih =>
    obtain ⟨k', v⟩ := e
    simp only [Table.get]
    split
    · rename_i hk; subst hk; exact .inr (by simp)
    · rcases ih with h | h
      · exact .inl h
      · exact .inr (by simp [h])

end Sys2Proof.Machine
end

