-- ==== Sys2Proof/Laws/Records.lean ====
section
/-! SUPPORT. The Record Store: what the invalidation of R9 reaches and what it leaves. -/

namespace Sys2Proof.Machine

theorem spansMeet_iff (a b : Nat × Nat) : spansMeet a b = true ↔ ∃ k, inSpan a k ∧ inSpan b k := by
  simp only [spansMeet, decide_eq_true_eq]
  constructor
  · intro h
    exact ⟨max a.1 b.1, by omega, by omega⟩
  · rintro ⟨k, h1, h2⟩
    omega

/-- What a search from a frontier reaches among the entries of a list, entry by entry. -/
inductive SpanChain (rest : List (Nat × (Nat × Nat))) (frontier : List (Nat × Nat)) : Nat × (Nat × Nat) → Prop where
  | direct (e : Nat × (Nat × Nat)) (he : e ∈ rest) (hm : frontier.any (spansMeet e.2) = true) :
      SpanChain rest frontier e
  | chain (e e' : Nat × (Nat × Nat)) (hr : SpanChain rest frontier e') (he : e ∈ rest)
      (hm : spansMeet e.2 e'.2 = true) : SpanChain rest frontier e

theorem SpanChain.mem {rest : List (Nat × (Nat × Nat))} {frontier : List (Nat × Nat)} {e : Nat × (Nat × Nat)}
    (h : SpanChain rest frontier e) : e ∈ rest := by
  cases h with
  | direct _ he _ => exact he
  | chain _ _ _ he _ => exact he

theorem spanChain_split (rest hits others : List (Nat × (Nat × Nat))) (frontier : List (Nat × Nat))
    (hh : ∀ e, e ∈ hits ↔ e ∈ rest ∧ frontier.any (spansMeet e.2) = true)
    (ho : ∀ e, e ∈ others ↔ e ∈ rest ∧ frontier.any (spansMeet e.2) = false) (e : Nat × (Nat × Nat)) :
    SpanChain rest frontier e ↔ e ∈ hits ∨ SpanChain others (hits.map Prod.snd) e := by
  have hsplit : ∀ e, e ∈ rest → e ∈ hits ∨ e ∈ others := by
    intro e he
    cases hm : frontier.any (spansMeet e.2) with
    | true => exact .inl ((hh e).2 ⟨he, hm⟩)
    | false => exact .inr ((ho e).2 ⟨he, hm⟩)
  constructor
  · intro h
    induction h with
    | direct e he hm => exact .inl ((hh e).2 ⟨he, hm⟩)
    | chain e e' _ he hm ih =>
      rcases hsplit e he with h1 | h1
      · exact .inl h1
      · rcases ih with h2 | h2
        · exact .inr (.direct e h1 (List.any_eq_true.2 ⟨e'.2, List.mem_map_of_mem h2, hm⟩))
        · exact .inr (.chain e e' h2 h1 hm)
  · rintro (h | h)
    · exact .direct e ((hh e).1 h).1 ((hh e).1 h).2
    · induction h with
      | direct e he hm =>
        obtain ⟨sp, hsp, hm⟩ := List.any_eq_true.1 hm
        obtain ⟨e', he', rfl⟩ := List.mem_map.1 hsp
        exact .chain e e' (.direct e' ((hh e').1 he').1 ((hh e').1 he').2) ((ho e).1 he).1 hm
      | chain e e' _ he hm ih => exact .chain e e' ih ((ho e).1 he).1 hm

/-- The search with enough fuel finds exactly what the chains reach. -/
theorem mem_reachFrom : ∀ (fuel : Nat) (frontier : List (Nat × Nat)) (rest : List (Nat × (Nat × Nat))),
    rest.length ≤ fuel → ∀ i, i ∈ reachFrom fuel frontier rest ↔ ∃ e, SpanChain rest frontier e ∧ e.1 = i := by
  intro fuel
  induction fuel with
  | zero =>
    intro frontier rest hl i
    have : rest = [] := List.length_eq_zero_iff.1 (by omega)
    subst this
    simp only [reachFrom, List.not_mem_nil, false_iff]
    rintro ⟨e, he, _⟩
    exact absurd he.mem (by simp)
  | succ fuel ih =>
    intro frontier rest hl i
    have hh : ∀ e, e ∈ rest.filter (fun e => frontier.any (spansMeet e.2)) ↔
        e ∈ rest ∧ frontier.any (spansMeet e.2) = true := fun e => List.mem_filter
    have ho : ∀ e, e ∈ rest.filter (fun e => !frontier.any (spansMeet e.2)) ↔
        e ∈ rest ∧ frontier.any (spansMeet e.2) = false := by
      intro e; rw [List.mem_filter]; simp
    have hs := spanChain_split rest _ _ frontier hh ho
    have hp : rest.partition (fun e => frontier.any (spansMeet e.2)) =
        (rest.filter (fun e => frontier.any (spansMeet e.2)),
          rest.filter (fun e => !frontier.any (spansMeet e.2))) := by
      rw [List.partition_eq_filter_filter]; rfl
    unfold reachFrom
    rw [hp]
    cases hc : rest.filter (fun e => frontier.any (spansMeet e.2)) with
    | nil =>
      rw [hc] at hs
      simp only [List.not_mem_nil, false_iff]
      rintro ⟨e, he, hei⟩
      rcases (hs e).1 he with h | h
      · simp at h
      · clear he hei
        induction h with
        | direct e he hm => simp at hm
        | chain e e' _ he hm ih => exact ih
    | cons x xs =>
      rw [hc] at hs
      have hlen : (rest.filter (fun e => !frontier.any (spansMeet e.2))).length ≤ fuel := by
        have h1 : (rest.filter (fun e => frontier.any (spansMeet e.2))).length +
            (rest.filter (fun e => !frontier.any (spansMeet e.2))).length = rest.length := by
          have := List.length_eq_length_filter_add (l := rest) (fun e => frontier.any (spansMeet e.2))
          simpa using this.symm
        rw [hc] at h1
        simp only [List.length_cons] at h1
        omega
      simp only [List.mem_append, ih _ _ hlen i]
      constructor
      · rintro (h | ⟨e, he, rfl⟩)
        · obtain ⟨e, he, rfl⟩ := List.mem_map.1 h
          exact ⟨e, (hs e).2 (.inl he), rfl⟩
        · exact ⟨e, (hs e).2 (.inr he), rfl⟩
      · rintro ⟨e, he, rfl⟩
        rcases (hs e).1 he with h | h
        · exact .inl (List.mem_map_of_mem h)
        · exact .inr ⟨e, h, rfl⟩

theorem State.mem_definedSpans (s : State) (e : Nat × (Nat × Nat)) :
    e ∈ s.definedSpans ↔ e.1 < 64 ∧ (s.site e.1).state ≠ .unused ∧ e.2 = pinSpan (s.site e.1) := by
  obtain ⟨i, sp⟩ := e
  simp only [State.definedSpans, List.mem_map, List.mem_filter, List.mem_range, siteDefined, decide_eq_true_eq,
    Prod.mk.injEq, Config.siteCount]
  constructor
  · rintro ⟨j, ⟨h1, h2⟩, rfl, rfl⟩; exact ⟨h1, h2, rfl⟩
  · rintro ⟨h1, h2, h3⟩; exact ⟨i, ⟨h1, h2⟩, rfl, h3.symm⟩

/-- The sites that an invalidation visits are those it reaches. -/
theorem State.mem_reached (s : State) (span : Nat × Nat) (i : Nat) : i ∈ s.reached span ↔ Reached s span i := by
  unfold State.reached
  have hl : s.definedSpans.length ≤ 64 := by
    unfold State.definedSpans
    rw [List.length_map]
    refine (List.length_filter_le _ _).trans ?_
    simp [Config.siteCount]
  rw [show Config.siteCount = 64 from rfl, mem_reachFrom 64 [span] s.definedSpans hl i]
  constructor
  · rintro ⟨e, he, rfl⟩
    induction he with
    | direct e he hm =>
      obtain ⟨h1, h2, h3⟩ := (s.mem_definedSpans e).1 he
      simp only [List.any_cons, List.any_nil, Bool.or_false, h3] at hm
      obtain ⟨k, hk1, hk2⟩ := (spansMeet_iff _ _).1 hm
      exact .direct e.1 k h1 h2 hk2 hk1
    | chain e e' hr he hm ih =>
      obtain ⟨h1, h2, h3⟩ := (s.mem_definedSpans e).1 he
      obtain ⟨_, _, h3'⟩ := (s.mem_definedSpans e').1 hr.mem
      rw [h3, h3'] at hm
      obtain ⟨k, hk1, hk2⟩ := (spansMeet_iff _ _).1 hm
      exact .chain e'.1 e.1 k ih h1 h2 hk2 hk1
  · intro h
    refine ⟨(i, pinSpan (s.site i)), ?_, rfl⟩
    induction h with
    | direct i k hi hd hs hk =>
      refine .direct _ ((s.mem_definedSpans _).2 ⟨hi, hd, rfl⟩) ?_
      simp only [List.any_cons, List.any_nil, Bool.or_false]
      exact (spansMeet_iff _ _).2 ⟨k, hk, hs⟩
    | chain i j k _ hj hd hs hk ih =>
      exact .chain _ _ ih ((s.mem_definedSpans _).2 ⟨hj, hd, rfl⟩) ((spansMeet_iff _ _).2 ⟨k, hk, hs⟩)

/-! ## Records and verdicts after a write -/

theorem State.setRecord_record (s : State) (i j : Nat) (r : PressRecord) :
    (s.setRecord i r).record j = if j = i then r else s.record j := by
  unfold State.record State.setRecord
  rw [Table.get_set]

theorem State.writeVerdicts_verdict (s : State) (x : Site) (f : Nat → PinVerdict → PinVerdict) (k : Nat) :
    (s.writeVerdicts x f).verdict k = if inSpan (pinSpan x) k then f k (s.verdict k) else s.verdict k := by
  unfold State.verdict State.writeVerdicts
  rw [Table.get_update]

theorem State.invalidateSite_eq (s : State) (i : Nat) :
    s.invalidateSite i =
      { s with
          records := (s.invalidateSite i).records, verdicts := (s.invalidateSite i).verdicts,
          cell := { s.cell with transfer := s.cell.transfer.map (fun t => overtake t i) } } := rfl

theorem State.invalidateSite_record (s : State) (i j : Nat) :
    (s.invalidateSite i).record j = if j = i then PressRecord.emptyForm else s.record j :=
  s.setRecord_record i j PressRecord.emptyForm

theorem State.invalidateSite_verdict (s : State) (i k : Nat) :
    (s.invalidateSite i).verdict k = if inSpan (pinSpan (s.site i)) k then .noVerdict else s.verdict k :=
  (s.setRecord i PressRecord.emptyForm).writeVerdicts_verdict (s.site i) (fun _ _ => .noVerdict) k

/-- A fold of invalidations empties the record and the pins of each site of its list and keeps every other record and
verdict; of the rest it touches the open transfer alone. -/
theorem State.foldInvalidate (sites : List Nat) : ∀ s : State,
    (∃ tr, sites.foldl State.invalidateSite s =
      { s with
          records := (sites.foldl State.invalidateSite s).records,
          verdicts := (sites.foldl State.invalidateSite s).verdicts, cell := { s.cell with transfer := tr } } ∧
      (s.cell.transfer = none → tr = none)) ∧
    (∀ j, (sites.foldl State.invalidateSite s).record j = if j ∈ sites then PressRecord.emptyForm else s.record j) ∧
    (∀ k, (∃ i ∈ sites, inSpan (pinSpan (s.site i)) k) →
      (sites.foldl State.invalidateSite s).verdict k = .noVerdict) ∧
    (∀ k, ¬ (∃ i ∈ sites, inSpan (pinSpan (s.site i)) k) →
      (sites.foldl State.invalidateSite s).verdict k = s.verdict k) := by
  induction sites with
  | nil => intro s; exact ⟨⟨s.cell.transfer, rfl, id⟩, by simp, by simp, by simp⟩
  | cons i is ih =>
    intro s
    obtain ⟨⟨tr, h1, h1'⟩, h2, h3, h4⟩ := ih (s.invalidateSite i)
    have hsite : ∀ j, (s.invalidateSite i).site j = s.site j := fun j => rfl
    simp only [List.foldl_cons]
    refine ⟨⟨tr, ?_, ?_⟩, ?_, ?_, ?_⟩
    · rw [h1, s.invalidateSite_eq i]
    · intro hn; apply h1'; rw [s.invalidateSite_eq i]; simp only [hn, Option.map_none]
    · intro j
      rw [h2 j, s.invalidateSite_record i j]
      simp only [List.mem_cons]
      by_cases hj : j = i <;> by_cases hm : j ∈ is <;> simp [hj, hm]
    · rintro k ⟨j, hj, hk⟩
      by_cases hx : ∃ i' ∈ is, inSpan (pinSpan (s.site i')) k
      · exact h3 k hx
      · rw [h4 k (by simpa only [hsite] using hx), s.invalidateSite_verdict i k]
        rcases List.mem_cons.1 hj with rfl | hj
        · rw [if_pos hk]
        · exact absurd ⟨j, hj, hk⟩ hx
    · intro k hx
      have hx1 : ¬ inSpan (pinSpan (s.site i)) k := fun hk => hx ⟨i, List.mem_cons_self, hk⟩
      have hx2 : ¬ ∃ i' ∈ is, inSpan (pinSpan (s.site i')) k :=
        fun ⟨j, hj, hk⟩ => hx ⟨j, List.mem_cons_of_mem _ hj, hk⟩
      rw [h4 k (by simpa only [hsite] using hx2), s.invalidateSite_verdict i k, if_neg hx1]

/-- Everything an invalidation does: it empties what it reaches, and of the rest it touches the open transfer alone. -/
theorem State.invalidateSpan_emptied (s : State) (span : Nat × Nat) :
    (∃ tr, s.invalidateSpan span =
      { s with
          records := (s.invalidateSpan span).records, verdicts := (s.invalidateSpan span).verdicts,
          cell := { s.cell with transfer := tr } } ∧ (s.cell.transfer = none → tr = none)) ∧
    Emptied s span none s (s.invalidateSpan span) := by
  have h := State.foldInvalidate (s.reached span)
    { s with verdicts := Table.update PinVerdict.noVerdict s.verdicts span.1 span.2 (fun _ _ => .noVerdict) }
  obtain ⟨⟨tr, h1, h1'⟩, h2, h3, h4⟩ := h
  have hv : ∀ k, State.verdict
      { s with verdicts := Table.update PinVerdict.noVerdict s.verdicts span.1 span.2 (fun _ _ => .noVerdict) } k =
        if inSpan span k then .noVerdict else s.verdict k := by
    intro k; unfold State.verdict; rw [Table.get_update]
  refine ⟨⟨tr, h1, h1'⟩, ?_, ?_, ?_, ?_⟩
  · rintro i (hi | hi)
    · exact absurd hi (by simp)
    · rw [State.invalidateSpan, h2 i, if_pos ((s.mem_reached span i).2 hi)]
  · intro i hi
    rw [State.invalidateSpan, h2 i, if_neg]
    · rfl
    · intro hm; exact hi (.inr ((s.mem_reached span i).1 hm))
  · rintro k hk
    by_cases hx : ∃ i ∈ s.reached span, inSpan (pinSpan (s.site i)) k
    · exact h3 k hx
    · rw [State.invalidateSpan, h4 k hx, hv k, if_pos]
      rcases hk with hk | ⟨i, hi, hk⟩
      · exact hk
      · exact absurd ⟨i, (s.mem_reached span i).2 hi, hk⟩ hx
  · intro k hk
    have hx : ¬ ∃ i ∈ s.reached span, inSpan (pinSpan (s.site i)) k := by
      rintro ⟨i, hi, hik⟩; exact hk (.inr ⟨i, (s.mem_reached span i).1 hi, hik⟩)
    rw [State.invalidateSpan, h4 k hx, hv k, if_neg (fun h => hk (.inl h))]

end Sys2Proof.Machine
end

