-- ==== Sys2Proof/Laws/Stroke.lean ====
section
/-! SUPPORT. What the shared operations of a stroke can do: the watch slots and the verdict event, an outcome, a fault, and
an engine entering IDLE. -/

namespace Sys2Proof.Machine

/-! ## Posting -/

@[simp] theorem headPort_ne_cell (h : Head) : headPort h ≠ .cell := by cases h <;> simp [headPort]

theorem arrivals_append (q : NoticeQueue) (ms ns : List Notice) :
    arrivals q (ms ++ ns) = arrivals (arrivals q ms) ns := List.foldl_append

/-! ## The end of the watch slots (R172) -/

/-- Finishing both slots leaves each FULL where it filled from the stroke, and nothing else but notices on the Cell Port. -/
theorem State.finishSlots_eq (s : State) (h : Head) (o : StrokeOutcome) :
    s.finishSlots h o =
      { s with
          slot0 := slotAfter h o s.slot0, slot1 := slotAfter h o s.slot1,
          cell :=
            { s.cell with queue := arrivals s.cell.queue (slotNotice h o 0 s.slot0 ++ slotNotice h o 1 s.slot1) } } := by
  unfold State.finishSlots State.finishSlot slotAfter slotNotice
  by_cases h0 : fillingFrom h s.slot0 = true <;> by_cases h1 : fillingFrom h s.slot1 = true <;>
    simp [h0, h1, State.slot, State.setSlot, State.postTo, State.modPort, traceFull, arrivals]

/-! ## The verdict event (R127, R158) -/

theorem laneSummaries_length (job : Job) (offending : List Nat) : ∀ (lane : Nat) (es : List EnvelopeLane)
    (ls : List LaneTally), (laneSummaries job offending lane es ls).length = min es.length ls.length
  | _, [], _ => by simp [laneSummaries]
  | _, _ :: _, [] => by simp [laneSummaries]
  | lane, e :: es, l :: ls => by
    simp only [laneSummaries, List.length_cons, laneSummaries_length job offending (lane + 1) es ls]; omega

theorem laneSummaries_get (job : Job) (offending : List Nat) : ∀ (lane : Nat) (es : List EnvelopeLane)
    (ls : List LaneTally) (k : Nat) (e : EnvelopeLane) (l : LaneTally), es[k]? = some e → ls[k]? = some l →
    (laneSummaries job offending lane es ls)[k]? = some (summaryOf job offending (lane + k) e.used l)
  | _, [], _, _, _, _, he, _ => by simp at he
  | _, _ :: _, [], _, _, _, _, hl => by simp at hl
  | lane, e' :: es, l' :: ls, 0, e, l, he, hl => by
    simp only [List.getElem?_cons_zero, Option.some.injEq] at he hl
    subst he; subst hl
    simp only [laneSummaries, List.getElem?_cons_zero, Nat.add_zero, Option.some.injEq, summaryOf, laneVerdict,
      laneFailed]
    cases e'.used <;> simp
  | lane, e' :: es, l' :: ls, k + 1, e, l, he, hl => by
    simp only [List.getElem?_cons_succ] at he hl
    have := laneSummaries_get job offending (lane + 1) es ls k e l he hl
    simp only [laneSummaries, List.getElem?_cons_succ, this]
    congr 2; omega

/-- The record, the verdicts, the notices and the slots of a verdict event, and nothing else. -/
theorem State.verdictEvent_frame (s : State) (h : Head) (job : Job) (env : Envelope) (ctx : Stroke) (o : StrokeOutcome)
    (isFault : Bool) : s.verdictEvent h job env ctx o isFault =
      { s with
          records := (s.verdictEvent h job env ctx o isFault).records,
          verdicts := (s.verdictEvent h job env ctx o isFault).verdicts,
          slot0 := (s.verdictEvent h job env ctx o isFault).slot0,
          slot1 := (s.verdictEvent h job env ctx o isFault).slot1,
          cell := (s.verdictEvent h job env ctx o isFault).cell,
          portA := (s.verdictEvent h job env ctx o isFault).portA,
          portB := (s.verdictEvent h job env ctx o isFault).portB } := by
  unfold State.verdictEvent State.writeStroke
  rw [State.finishSlots_eq]
  cases h <;> rfl

theorem State.verdictEvent_left (s : State) (h : Head) (job : Job) (env : Envelope) (ctx : Stroke) (o : StrokeOutcome)
    (isFault : Bool) : VerdictLeft s h job env ctx o (s.verdictEvent h job env ctx o isFault) := by
  have hr : (s.verdictEvent h job env ctx o isFault).records =
      (s.setRecord job.site (buildRecord s.map.generation h job env ctx o)).records := by
    unfold State.verdictEvent State.writeStroke; rw [State.finishSlots_eq]; cases h <;> rfl
  have hv : (s.verdictEvent h job env ctx o isFault).verdicts =
      (s.writeVerdicts (s.site job.site) (fun i before => pinVerdict job ctx o (s.pin i) before)).verdicts := by
    unfold State.verdictEvent State.writeStroke; rw [State.finishSlots_eq]; cases h <;> rfl
  have h0 : (s.verdictEvent h job env ctx o isFault).slot0 = slotAfter h o s.slot0 := by
    unfold State.verdictEvent State.writeStroke; rw [State.finishSlots_eq]; cases h <;> rfl
  have h1 : (s.verdictEvent h job env ctx o isFault).slot1 = slotAfter h o s.slot1 := by
    unfold State.verdictEvent State.writeStroke; rw [State.finishSlots_eq]; cases h <;> rfl
  have hrec : ∀ i, (s.verdictEvent h job env ctx o isFault).record i =
      (s.setRecord job.site (buildRecord s.map.generation h job env ctx o)).record i := fun i => by
    simp only [State.record, hr]
  have hver : ∀ k, (s.verdictEvent h job env ctx o isFault).verdict k =
      (s.writeVerdicts (s.site job.site) (fun i before => pinVerdict job ctx o (s.pin i) before)).verdict k := fun k => by
    simp only [State.verdict, hv]
  refine ⟨⟨laneSummaries job ctx.offending 0 env.lanes ctx.lanes, ?_, laneSummaries_length .., ?_⟩, ?_, ?_, ?_, h0, h1⟩
  · rw [hrec, State.setRecord_record]; simp [buildRecord]
  · intro k e l he hl
    simpa using laneSummaries_get job ctx.offending 0 env.lanes ctx.lanes k e l he hl
  · intro i hi; rw [hrec, State.setRecord_record]; simp [hi]
  · intro k hk; rw [hver, State.writeVerdicts_verdict]; simp [hk.1, hk.2]
  · intro k hk; rw [hver, State.writeVerdicts_verdict]; simp [hk]

theorem State.verdictEvent_port (s : State) (h : Head) (job : Job) (env : Envelope) (ctx : Stroke) (o : StrokeOutcome)
    (isFault : Bool) (p : Port) : (s.verdictEvent h job env ctx o isFault).port p =
      { (s.overtakeTransfer job.site).port p with
          queue :=
            if p = .cell then
              arrivals s.cell.queue
                ([verdictNotice h job ctx o isFault] ++ slotNotice h o 0 s.slot0 ++ slotNotice h o 1 s.slot1)
            else if p = headPort h then arrivals (s.port p).queue [verdictNotice h job ctx o isFault]
            else (s.port p).queue } := by
  unfold State.verdictEvent State.writeStroke
  rw [State.finishSlots_eq]
  cases h <;> cases p <;> rfl

theorem State.overtakeTransfer_portKept (s : State) (i : Nat) (p : Port) (q : NoticeQueue) :
    portKept (s.port p) { (s.overtakeTransfer i).port p with queue := q } := by
  cases p
  · refine ⟨rfl, rfl, rfl, rfl, fun hn => ?_⟩
    simp only [State.port] at hn ⊢
    simp [State.overtakeTransfer, State.modPort, hn]
  · exact ⟨rfl, rfl, rfl, rfl, fun hn => hn⟩
  · exact ⟨rfl, rfl, rfl, rfl, fun hn => hn⟩

/-- A verdict event overtakes an open transfer as R165 says. -/
theorem State.verdictEvent_transfer (s : State) (h : Head) (job : Job) (env : Envelope) (ctx : Stroke)
    (o : StrokeOutcome) (isFault : Bool) :
    (s.verdictEvent h job env ctx o isFault).cell.transfer = transferAfter job.site s.cell.transfer := by
  have hp := congrArg PortUnit.transfer (s.verdictEvent_port h job env ctx o isFault .cell)
  have ho : ((s.overtakeTransfer job.site).port .cell).transfer =
      s.cell.transfer.map (fun x => overtake x job.site) := rfl
  simp only [ho] at hp
  rw [show (s.verdictEvent h job env ctx o isFault).cell.transfer = _ from hp]
  cases s.cell.transfer with
  | none => rfl
  | some x => rcases x with ⟨_ | _ | _, _, _, _, _⟩ <;> rfl

/-! ## Outcomes and faults (R127, R128, R132) -/

/-- A stroke that reaches an outcome that is no fault. -/
theorem State.conclude_concludes (s : State) (h : Head) (job : Job) (env : Envelope) (ctx : Stroke) (o : StrokeOutcome) :
    Concludes s h job env ctx o [] (s.conclude h job env ctx o) := by
  have hl := s.verdictEvent_left h job env ctx o false
  have hf := s.verdictEvent_frame h job env ctx o false
  have hp := s.verdictEvent_port h job env ctx o false
  have ht := s.verdictEvent_transfer h job env ctx o false
  unfold State.conclude
  generalize s.verdictEvent h job env ctx o false = u at hl hf hp ht
  refine ⟨⟨?_, ?_, ?_⟩, ⟨?_, ?_, ?_, ?_, ?_, ?_⟩, ⟨?_, ?_, ?_⟩, ?_, ?_⟩
  · rw [hf]; cases h <;> rfl
  · rw [hf]; cases h <;> rfl
  · intro p
    rw [State.setEngine_port, hp]; exact s.overtakeTransfer_portKept _ _ _
  · simpa using hl.record
  · simpa using hl.otherRecords
  · simpa using hl.pins
  · simpa using hl.otherPins
  · simpa using hl.slot0
  · simpa using hl.slot1
  · have := hp .cell
    simp only [State.port] at this
    simp [this, verdictNotice, verdictOf]
  · rw [State.setEngine_port, hp]; simp [verdictNotice, verdictOf]
  · rw [State.setEngine_port, hp]; cases h <;> simp [headPort, otherHead]
  · rw [← ht]; cases h <;> rfl
  · rw [hf]; cases h <;> rfl

/-- A notice posted first in the event stands before the verdict notice. -/
theorem State.postHead_concludes (s : State) (h : Head) (job : Job) (env : Envelope) (ctx : Stroke) (o : StrokeOutcome)
    (n : Notice) : Concludes s h job env ctx o [n] ((s.postHead h n).conclude h job env ctx o) := by
  have hc := (s.postHead h n).conclude_concludes h job env ctx o
  generalize (s.postHead h n).conclude h job env ctx o = t at hc
  refine ⟨⟨?_, ?_, ?_⟩, ⟨?_, ?_, ?_, ?_, ?_, ?_⟩, ⟨?_, ?_, ?_⟩, ?_, ?_⟩
  · rw [hc.kept.frame]; cases h <;> rfl
  · simpa using hc.kept.other
  · intro p
    have := hc.kept.ports p
    cases h <;> cases p <;> exact this
  · simpa using hc.left.record
  · simpa using hc.left.otherRecords
  · simpa using hc.left.pins
  · simpa using hc.left.otherPins
  · simpa using hc.left.slot0
  · simpa using hc.left.slot1
  · rw [hc.told.cell]; cases h <;> simp [State.postHead, State.postTo, State.modPort, headPort, arrivals]
  · rw [hc.told.port]; cases h <;> simp [State.postHead, State.postTo, State.modPort, State.port, headPort, arrivals]
  · rw [hc.told.other]; cases h <;> rfl
  · rw [hc.overtaken]; cases h <;> rfl
  · simpa using hc.own

/-- A fault before the verdict. -/
theorem State.faultStroke_faults (s : State) (h : Head) (job : Job) (env : Envelope) (ctx : Stroke) (o : StrokeOutcome)
    (b : Breach) : Faults s h job env ctx o b.offending b.faultLane (s.faultStroke h job env ctx o b) := by
  have he : faultContext ctx o b = faulted ctx o b.offending b.faultLane := rfl
  have hl := s.verdictEvent_left h job env (faultContext ctx o b) o true
  have hf := s.verdictEvent_frame h job env (faultContext ctx o b) o true
  have hp := s.verdictEvent_port h job env (faultContext ctx o b) o true
  have ht := s.verdictEvent_transfer h job env (faultContext ctx o b) o true
  unfold State.faultStroke
  generalize s.verdictEvent h job env (faultContext ctx o b) o true = u at hl hf hp ht
  rw [he] at hl ⊢
  have hport : ∀ p, (((u.assertStop h).setEngine h (.stroke .faulted job env (faulted ctx o b.offending b.faultLane))).setSilence
      h none).port p = u.port p := fun p => by cases h <;> cases p <;> rfl
  refine ⟨⟨?_, ?_, ?_⟩, ⟨?_, ?_, ?_, ?_, ?_, ?_⟩, ⟨?_, ?_, ?_⟩, ?_, ?_⟩
  · rw [hf]; cases h <;> rfl
  · rw [hf]; cases h <;> rfl
  · intro p
    rw [hport, hp]; exact s.overtakeTransfer_portKept _ _ _
  · simpa using hl.record
  · simpa using hl.otherRecords
  · simpa using hl.pins
  · simpa using hl.otherPins
  · simpa using hl.slot0
  · simpa using hl.slot1
  · have := hport .cell
    simp only [State.port] at this
    rw [this]
    have := hp .cell
    simp only [State.port] at this
    simp [this, verdictNotice, faultOf, faultContext, faultStationOf]
  · rw [hport, hp]; simp [verdictNotice, faultOf, faultContext, faultStationOf]
  · rw [hport, hp]; cases h <;> simp [headPort, otherHead]
  · rw [← ht]; cases h <;> rfl
  · rw [hf]; cases h <;> rfl

/-! ## An engine entering IDLE (R70, R71, R130) -/

theorem engineIdle_iff (e : Engine) : engineIdle e = true ↔ e = .idle := by cases e <;> simp [engineIdle]

/-- What settles a site before its engine enters IDLE: the site table and the claims and waits alone. -/
structure Settles (s : State) (h : Head) (fate : SiteFate) (t : State) : Prop where
  frame : t = { s with map := { s.map with sites := t.map.sites }, headA := t.headA, headB := t.headB }
  own : t.head h = { s.head h with claim := if fate.releases then none else (s.head h).claim }
  other : t.head (otherHead h) =
    { s.head (otherHead h) with waiting := waitAfter fate.releases (s.head (otherHead h)).waiting }
  sites : ∀ i, t.site i = fate.site s i

theorem State.untouched_settles (s : State) (h : Head) : Settles s h .untouched s := by
  refine ⟨rfl, ?_, ?_, fun _ => rfl⟩ <;> cases h <;> rfl

theorem State.setSite_site (s : State) (i j : Nat) (x : Site) :
    (s.setSite i x).site j = if j = i then x else s.site j := by
  simp only [State.site, State.setSite, Table.get_set]

theorem State.setSiteState_settles (s : State) (h : Head) (i : Nat) :
    Settles s h (.claimedAgain i) (s.setSiteState i .claimed) := by
  refine ⟨rfl, ?_, ?_, ?_⟩
  · cases h <;> rfl
  · cases h <;> rfl
  · intro j
    rw [State.setSiteState, State.setSite_site]
    by_cases hj : j = i <;> simp [SiteFate.site, hj]

theorem State.releaseSite_settles (s : State) (h : Head) (i : Nat) (st : SiteState) :
    Settles s h (.released i st) (s.releaseSite h i st) := by
  refine ⟨?_, ?_, ?_, ?_⟩
  · cases h <;> rfl
  · cases h <;> rfl
  · cases h <;> rfl
  · intro j
    have : (s.releaseSite h i st).site j = (s.resolveSite i st).site j := by cases h <;> rfl
    rw [this, State.resolveSite, State.setSite_site]
    by_cases hj : j = i <;> simp [SiteFate.site, hj]

/-- The swap that follows when an engine has entered IDLE. -/
theorem State.trySwap_eq (s : State) (h : Head) (hi : (s.head h).engine = .idle) :
    s.trySwap = if swapFollows s h then s.swap else s := by
  have : (s.library.swapPending && s.bothIdle) = swapFollows s h := by
    have hb : ∀ e : Engine, engineIdle e = decide (e = .idle) := fun e => by cases e <;> simp [engineIdle]
    cases h with
    | a =>
      have hi' : s.headA.engine = .idle := hi
      have hs : swapFollows s .a = (s.library.swapPending && decide (s.headB.engine = .idle)) := rfl
      rw [hs, State.bothIdle, hb, hb, hi']; simp
    | b =>
      have hi' : s.headB.engine = .idle := hi
      have hs : swapFollows s .b = (s.library.swapPending && decide (s.headA.engine = .idle)) := rfl
      rw [hs, State.bothIdle, hb, hb, hi']; simp
  unfold State.trySwap
  rw [this]

/-- An engine that has entered IDLE, with its site settled and its notices posted, before the swap that may follow. -/
structure Idled (s : State) (h : Head) (fate : SiteFate) (ns : List Notice) (u : State) : Prop where
  frame : u = { s with
    map := { s.map with sites := u.map.sites }, headA := u.headA, headB := u.headB, cell := u.cell, portA := u.portA,
    portB := u.portB }
  own : u.head h =
    { s.head h with
        engine := .idle, link := { (s.head h).link with silence := none },
        claim := if fate.releases then none else (s.head h).claim }
  other : u.head (otherHead h) =
    { s.head (otherHead h) with waiting := waitAfter fate.releases (s.head (otherHead h)).waiting }
  sites : ∀ i, u.site i = fate.site s i
  cell : u.cell = { s.cell with queue := arrivals s.cell.queue ns }
  port : u.port (headPort h) = { s.port (headPort h) with queue := arrivals (s.port (headPort h)).queue ns }
  otherPort : u.port (headPort (otherHead h)) = s.port (headPort (otherHead h))

theorem port_cases (h : Head) (p : Port) : p = .cell ∨ p = headPort h ∨ p = headPort (otherHead h) := by
  cases h <;> cases p <;> simp [headPort, otherHead]

/-- The swap that follows an engine's entering IDLE. -/
theorem Idled.endsIdle {s u : State} {h : Head} {fate : SiteFate} {ns : List Notice} (hu : Idled s h fate ns u) :
    EndsIdle s h fate ns u.trySwap ∧ storeKept s u.trySwap := by
  have hi : (u.head h).engine = .idle := by rw [hu.own]
  have hlib : u.library = s.library := by rw [hu.frame]
  have hw : swapFollows u h = swapFollows s h := by
    unfold swapFollows; rw [hu.other, hlib]
  rw [State.trySwap_eq _ h hi, hw]
  have hk : ∀ p, portKept (s.port p) (u.port p) := by
    intro p
    rcases port_cases h p with rfl | rfl | rfl
    · exact (show u.port .cell = _ from hu.cell) ▸ ⟨rfl, rfl, rfl, rfl, fun hn => hn⟩
    · exact hu.port ▸ ⟨rfl, rfl, rfl, rfl, fun hn => hn⟩
    · exact hu.otherPort ▸ ⟨rfl, rfl, rfl, rfl, fun hn => hn⟩
  have hstore : storeKept s u := by
    refine ⟨?_, ?_, ?_, ?_, ?_⟩
    · rw [hu.frame]
    · rw [hu.frame]
    · rw [hu.frame]
    · rw [hu.frame]
    · rw [hu.cell]
  by_cases hf : swapFollows s h = true
  · have hp : ∀ p, (u.swap).port p = { u.port p with queue := arrive (u.port p).queue (swapDone (s.library.generation + 1)) } := by
      intro p; rw [← hlib]; cases p <;> rfl
    have hc : u.swap.cell = { u.cell with queue := arrive u.cell.queue (swapDone (s.library.generation + 1)) } := hp .cell
    simp only [hf, if_true]
    refine ⟨⟨?_, ?_, ?_, ?_, ?_, ?_, ?_, ?_, ?_⟩, ?_⟩
    · rw [hu.frame]; rfl
    · rw [← hu.own]; cases h <;> rfl
    · rw [← hu.other]; cases h <;> rfl
    · exact hu.sites
    · rw [libraryAfter, if_pos hf, ← hlib]; rfl
    · rw [hc, hu.cell, swapNotices, if_pos hf, arrivals_append]; rfl
    · rw [hp, hu.port, swapNotices, if_pos hf, arrivals_append]; rfl
    · rw [hp, hu.otherPort, swapNotices, if_pos hf]; rfl
    · intro p; rw [hp]; exact hk p
    · refine ⟨hstore.1, hstore.2.1, hstore.2.2.1, hstore.2.2.2.1, ?_⟩
      rw [hc]; exact hstore.2.2.2.2
  · simp only [hf]
    refine ⟨⟨?_, hu.own, hu.other, hu.sites, ?_, ?_, ?_, ?_, hk⟩, hstore⟩
    · rw [hu.frame]; simp
    · rw [libraryAfter, if_neg hf]; simpa using hlib
    · simp [hu.cell, swapNotices, hf]
    · simp [hu.port, swapNotices, hf]
    · simp [hu.otherPort, swapNotices, hf, arrivals]

/-- From a settled site the engine enters IDLE, and a notice or none is posted. -/
theorem Settles.idled {s t : State} {h : Head} {fate : SiteFate} (hs : Settles s h fate t) :
    Idled s h fate [] (t.toIdle h) ∧ ∀ n, Idled s h fate [n] ((t.toIdle h).postHead h n) := by
  have hc : t.cell = s.cell := by rw [hs.frame]
  have hq : ∀ p, t.port p = s.port p := fun p => by rw [hs.frame]; cases p <;> rfl
  have ho : ∀ n, ((t.toIdle h).postHead h n).head h =
      { s.head h with
          engine := .idle, link := { (s.head h).link with silence := none },
          claim := if fate.releases then none else (s.head h).claim } := fun n => by
    have : ((t.toIdle h).postHead h n).head h =
        { t.head h with engine := .idle, link := { (t.head h).link with silence := none } } := by cases h <;> rfl
    rw [this, hs.own]
  constructor
  · refine ⟨?_, ?_, ?_, ?_, ?_, ?_, ?_⟩
    · rw [hs.frame]; cases h <;> rfl
    · have := ho (swapDone 0)
      rwa [State.postHead_head] at this
    · rw [← hs.other]; cases h <;> rfl
    · intro i; rw [← hs.sites]; cases h <;> rfl
    · rw [← hc]; cases h <;> rfl
    · rw [State.toIdle_port, hq]; rfl
    · rw [State.toIdle_port, hq]
  · intro n
    refine ⟨?_, ho n, ?_, ?_, ?_, ?_, ?_⟩
    · rw [hs.frame]; cases h <;> rfl
    · rw [← hs.other]; cases h <;> rfl
    · intro i; rw [← hs.sites]; cases h <;> rfl
    · rw [← hc]; cases h <;> rfl
    · rw [← hq]; cases h <;> rfl
    · rw [← hq]; cases h <;> rfl

/-- The site of an ended stroke settles by its fate. -/
theorem State.settleSite_settles (s : State) (h : Head) (job : Job) (ctx : Stroke) (o : StrokeOutcome) (cleared : Bool)
    (back : SiteState) (fate : SiteFate) (hf : StrokeFate job.site job.kind ctx.contact.isSome cleared back o fate) :
    Settles s h fate (s.settleSite h job (siteAfter job.kind o ctx.contact.isSome cleared back)) ∧
      (siteAfter job.kind o ctx.contact.isSome cleared back).getD .claimed = fate.state := by
  generalize ctx.contact.isSome = contact at hf
  generalize hk : job.kind = k at hf
  have hrel : ∀ st, Settles s h (.released job.site st) (s.settleSite h job (some st)) := fun st =>
    s.releaseSite_settles h job.site st
  cases hf with
  | seated hk => exact ⟨hrel _, rfl⟩
  | verified hk => exact ⟨hrel _, rfl⟩
  | rejected o hk ho => rcases ho with rfl | rfl | rfl <;> exact ⟨hrel _, rfl⟩
  | unverified hk => exact ⟨hrel _, rfl⟩
  | overforced => exact ⟨hrel _, rfl⟩
  | noContact => exact ⟨hrel _, rfl⟩
  | cutPress o ho hc hk => subst hc; subst hk; rcases ho with rfl | rfl | rfl <;> exact ⟨hrel _, rfl⟩
  | cutVerify o ho hc hk => subst hc; subst hk; rcases ho with rfl | rfl | rfl <;> exact ⟨hrel _, rfl⟩
  | abortedEarly hc hl => subst hc; subst hl; exact ⟨s.setSiteState_settles h job.site, rfl⟩
  | clearedEarly hc hl => subst hc; subst hl; exact ⟨hrel _, rfl⟩
  | lostEarly o ho hc => subst hc; rcases ho with rfl | rfl <;> exact ⟨hrel _, rfl⟩

/-- The end of a stroke: the site and the claim by its fate, IDLE, STROKE_DONE, and the swap that may follow. -/
theorem State.endStroke_endsIdle (s : State) (h : Head) (job : Job) (ctx : Stroke) (o : StrokeOutcome) (cleared : Bool)
    (fate : SiteFate)
    (hf : StrokeFate job.site job.kind ctx.contact.isSome cleared (returnState (s.site job.site)) o fate) :
    EndsIdle s h fate [doneNotice h job.site o fate.state] (s.endStroke h job ctx o cleared) ∧
      storeKept s (s.endStroke h job ctx o cleared) := by
  obtain ⟨hs, hd⟩ := s.settleSite_settles h job ctx o cleared _ fate hf
  unfold State.endStroke
  rw [hd]
  exact (hs.idled.2 _).endsIdle

/-! ## RESTART and the Cell Port (R182) -/

/-- A verdict event depends on the Cell Port for that port alone, and leaves its wire. -/
theorem State.verdictEvent_withCell (s : State) (c : PortUnit) (h : Head) (job : Job) (env : Envelope) (ctx : Stroke)
    (o : StrokeOutcome) (isFault : Bool) :
    ∃ d : PortUnit, { s with cell := c }.verdictEvent h job env ctx o isFault =
      { s.verdictEvent h job env ctx o isFault with cell := d } ∧ d.wire = c.wire := by
  have hp := congrArg PortUnit.wire (State.verdictEvent_port { s with cell := c } h job env ctx o isFault .cell)
  refine ⟨({ s with cell := c }.verdictEvent h job env ctx o isFault).cell, ?_, hp.trans rfl⟩
  unfold State.verdictEvent State.writeStroke
  rw [State.finishSlots_eq, State.finishSlots_eq]
  cases h <;> rfl

/-- So does the end of a head's work at RESTART. -/
theorem State.restartHead_withCell (s : State) (c : PortUnit) (h : Head) :
    ∃ d : PortUnit, { s with cell := c }.restartHead h = { s.restartHead h with cell := d } ∧ d.wire = c.wire := by
  have hv : ∃ d : PortUnit,
      { s with cell := c }.restartVerdict h = { s.restartVerdict h with cell := d } ∧ d.wire = c.wire := by
    have e : ({ s with cell := c } : State).head h = s.head h := by cases h <;> rfl
    unfold State.restartVerdict
    rw [e]
    split
    · split
      · exact s.verdictEvent_withCell c _ _ _ _ _ _
      · exact ⟨c, rfl, rfl⟩
    all_goals exact ⟨c, rfl, rfl⟩
  obtain ⟨d, hd, hw⟩ := hv
  refine ⟨d, ?_, hw⟩
  have e : ({ s.restartVerdict h with cell := d } : State).head h = (s.restartVerdict h).head h := by cases h <;> rfl
  unfold State.restartHead
  rw [hd]
  unfold State.restartClaim
  rw [e]
  split <;> cases h <;> rfl

/-- RESTART keeps of the Cell Port its wire alone. -/
theorem State.restarted_withCell (s : State) (c : PortUnit) (hc : c.wire = s.cell.wire) :
    { s with cell := c }.restarted = s.restarted := by
  have hs : ∀ (t : State) h, (t.restartHead h).cell.wire = t.cell.wire := by
    intro t h
    obtain ⟨d, hd, hw⟩ := t.restartHead_withCell t.cell h
    rw [show (t.restartHead h).cell = d from congrArg State.cell hd, hw]
  obtain ⟨d, hd, hw⟩ := s.restartHead_withCell c .a
  obtain ⟨d', hd', hw'⟩ := (s.restartHead .a).restartHead_withCell d .b
  have hwire : d'.wire = ((s.restartHead .a).restartHead .b).cell.wire := by rw [hs, hs, hw', hw, hc]
  refine congrArg State.trySwap ?_
  unfold State.restartWork
  rw [hd, hd']
  unfold State.restartSettings
  generalize (s.restartHead .a).restartHead .b = t at *
  cases hk : t.keep <;> simp [State.modHead, State.modPort, State.assertStop, State.modLines, restartPort, hwire, hk]

end Sys2Proof.Machine
end

