-- ==== Sys2Proof/Tests/Slice0.lean ====
section
/-! SUPPORT. Tests: ill-formed commands, frames written out from the formats of chapter 12, the manual's worked examples, and a
witness for the hypotheses of each statement. -/

namespace Sys2Proof.Tests
open Sys2Proof Sys2Proof.Machine

-- One test after another: their kernel evaluations would otherwise each take a thread of their own at once.
set_option Elab.async false

/-! ## Well-formedness: each check refuses a term -/

theorem test_claim_not_on_cell_port : portTakes (.claim .cell 3 0 0) = false := by decide

theorem test_map_edit_not_on_head_port : portTakes (.mapEdit .headA) = false := by decide

theorem test_head_field_missing_on_cell_port : fieldsAgree (.abort .cell none) = false := by decide

theorem test_head_field_not_on_head_port : fieldsAgree (.abort .headB (some 1)) = false := by decide

theorem test_pin_list_shorter_than_count : fieldsAgree (.writePins .cell 0 2 [⟨1, 0, 0, 0, 0, 0, 0⟩]) = false := by decide

theorem test_frame_too_long :
    frameFits (.writePins .cell 0 32 (List.replicate 32 ⟨1, 0, 0, 0, 0, 0, 0⟩)) = false := by decide +kernel

theorem test_incomplete_row_needs_incomplete : transactionFits (.incompleteFrame .cell [0xC1, 4, 0, 1]) = false := by
  decide

theorem test_discarded_row_needs_arrival : transactionFits (.discardedFrame .cell [0xC1, 4, 0]) = false := by decide

theorem test_unknown_row_needs_answer : transactionFits (.unknown .cell [0xC1, 4, 0, 1]) = false := by decide

theorem test_sample_row_needs_a_byte : transactionFits (.sampleFrame .a []) = false := by decide

theorem test_well_formed_claim : wellFormed (.claim .headA 3 0 1) = true := by decide

/-! ## Frames, byte by byte (12.2, 12.5, R98) -/

theorem test_crc_one_byte : crc [0x01] = 0x07 := by decide

theorem test_crc_two_bytes : crc [0x01, 0x02] = 0x1B := by decide +kernel

theorem test_frame_identify : encodeFrame (.identify .cell) = [0xC1, 4, 0, 0x01] := by decide

theorem test_frame_set_keepout : readTransaction [0xC1, 6, 0, 0x15, 0xB8, 0x0B] = .frame 0x15 [0xB8, 0x0B] := by decide

theorem test_parse_set_keepout : parseRequest .cell 0x15 [0xB8, 0x0B] = some (.setKeepout .cell 3000) := by decide

theorem test_parse_claim : parseRequest .headB 0x30 [11, 0, 1] = some (.claim .headB 11 0 1) := by decide

theorem test_parse_write_site :
    parseRequest .cell 0x12 [24, 0xE0, 0x2E, 0x40, 0x1F, 2, 0x20, 0x03, 5, 0, 0xB8, 0x0B, 0, 0, 0xDC, 0x05, 150, 0] =
      some (.writeSite .cell 24 ⟨12000, 8000, 2, 800, 5, 3000, 1500, 150⟩) := by decide

theorem test_parse_write_pins :
    parseRequest .cell 0x14 [0x22, 0x03, 1, 1, 3, 1, 2, 0x90, 0x01, 7, 9] =
      some (.writePins .cell 802 1 [⟨1, 3, 1, 2, 400, 7, 9⟩]) := by decide

theorem test_parse_write_profile :
    parseRequest .cell 0x20 [1, 2, 1, 0xAC, 0x0D, 0xF4, 0x01, 0xB0, 0x04, 0xB8, 0x0B] =
      some (.writeProfile .cell 1 2 1 3500 [⟨500, 1200, 3000⟩]) := by decide

theorem test_parse_set_tool :
    parseRequest .cell 0x28 [1, 1, 2, 0x34, 0x08, 0, 0, 0xFF, 0xFF, 0xFF, 0] =
      some (.setTool .cell 1 1 2 [⟨2100, 16777215⟩]) := by decide

theorem test_parse_set_head :
    parseRequest .cell 0x29 [0, 10, 0x40, 0x54, 0x89, 0] = some (.setHead .cell 0 10 9000000) := by decide

theorem test_parse_read_pins : parseRequest .cell 0x40 [30, 140, 0, 0] = some (.readPins .cell 30 140 0) := by decide

theorem test_parse_arm_watch : parseRequest .cell 0x48 [0, 255, 3] = some (.armWatch .cell 0 255 3) := by decide

theorem test_parse_head_abort : parseRequest .headA 0x35 [] = some (.abort .headA none) := by decide

/-- The smallest sample frame: 11 bytes, no lanes. -/
theorem test_sample_no_lanes :
    decodeSample [0xB6, 42, 0, 0, 0, 0, 0xB0, 0x04, 0, 0, crc [42, 0, 0, 0, 0, 0xB0, 0x04, 0, 0]] =
      some { sequence := 42, encoderFault := false, saturation := 0, laneCount := 0, displacement := 1200, raws := [] } := by
  decide +kernel

/-- Lane count field 17 is malformed (6.7). -/
theorem test_sample_seventeen_lanes : decodeSample [0xB6, 45, 0, 0, 0, 17, 0, 0, 0, 0, 0] = none := by decide

/-! ## The part of the worked examples: site 24 of 5.5, pressed by head B -/

/-- The profile of type 0, class 2. -/
def typeZero : Profile :=
  { points := [⟨0, 0, 300⟩, ⟨300, 1500, 3500⟩, ⟨900, 2500, 5200⟩, ⟨1600, 2000, 4600⟩], seatForce := 4000 }

/-- The profile of type 1, class 2. -/
def typeOne : Profile := { points := [⟨0, 0, 300⟩, ⟨500, 1200, 3000⟩, ⟨1400, 1800, 4200⟩], seatForce := 3500 }

/-- A pin of site 24. -/
def pinOf (live : Bool) (pinType offset : Nat) : Pin :=
  { live := live, lane := 3, pinType := pinType, holeClass := 2, entryOffset := offset, row := 0, column := 0 }

/-- The snapshot of 5.5 and 7.14. -/
def snap : Snapshot :=
  { Settings.default.judged with guard := 50, contactThreshold := 800, headCeiling := 60000 }

/-- The settings of the worked stroke. -/
def settings : Settings := { Settings.default with judged := snap }

/-- Head B's tool: six lanes, the gains of 6.8. -/
def tool : Tool :=
  { laneCount := 6, toolCode := 2,
    lanes := [⟨256, 16777215⟩, ⟨256, 16777215⟩, ⟨256, 16777215⟩, ⟨2100, 16777215⟩, ⟨300, 16777215⟩, ⟨256, 16777215⟩] }

/-- The job of a claim of a kind on site 24. -/
def job (k : Kind) : Job := { site := 24, kind := k, settings := snap, bankGeneration := 5 }

/-- Site 24, held by head B in a state. -/
def site24 (st : SiteState) : Site :=
  { state := st, x := 12000, y := 8000, toolCode := 2, firstPin := 800, pinCount := 5, contactLimit := 3000,
    seatDepth := 1500, seatTolerance := 150, holder := some .b, prior := some .pending }

/-- The board of the worked examples: site 24 in a state, site 10 pending, site 11 rejected. -/
def board (st : SiteState) : BoardMap :=
  { mode := .active, generation := 7, keepOut := 3000,
    sites :=
      [(10, { Site.undefined with state := .pending, x := 10000, y := 5000, toolCode := 2, pinCount := 1 }),
       (11, { Site.undefined with state := .rejected, x := 12000, y := 5000, toolCode := 2, firstPin := 1, pinCount := 1 }),
       (24, site24 st)],
    pins :=
      [(0, pinOf true 0 0), (1, pinOf true 0 0), (800, pinOf true 0 0), (801, pinOf true 0 0), (802, pinOf true 1 400),
       (803, pinOf true 1 400), (804, pinOf false 0 0)],
    locks := [] }

/-- The part of 5.5 with head B's engine in a state, and head A with the same tool and nothing to do. -/
def part (e : Engine) : State :=
  { State.reset with
      map := board (if strokeRuns e then .pressing else .claimed),
      library :=
        { bank0 := [], bank1 := [(2, some typeZero), (10, some typeOne)], active := .one, generation := 5,
          swapPending := false },
      headA := { HeadUnit.reset with tool := tool, lines := { Lines.reset with stop := false } },
      headB :=
        { HeadUnit.reset with
            tool := tool, settings := settings, claim := some { site := 24, kind := .press }, engine := e,
            link :=
              { Link.reset with sinceAccepted := some 0, silence := if strokeRuns e then some 5000 else none },
            lines := { Lines.reset with stop := false } } }

/-- The complete table of 5.5. -/
def table : Envelope := (part (.composing (job .press))).compose .b (job .press)

/-- A small complete table: one used lane in six, two stations. -/
def smallTable : Envelope :=
  { stationCount := some 2,
    lanes :=
      [⟨false, none⟩, ⟨false, none⟩, ⟨false, none⟩, ⟨true, some [⟨0, 1260⟩, ⟨475, 2382⟩]⟩, ⟨false, none⟩, ⟨false, none⟩],
    seatTotal := 15000, verifyThreshold := none }

/-- A stroke before its first frame, and one with its zeros, those of 6.8. -/
def fresh : Stroke := startStroke 6 snap

/-- A stroke after its tare, in APPROACH. -/
def tared : Stroke :=
  { fresh with tareCount := 8, tareZeros := some [12, -40, 7, -120, 0, -3], startDisplacement := some (-6000) }

/-- A stroke after contact at 1200. -/
def engaged : Stroke := { tared with contact := some 1200, maxDepth := some 0, stationIndex := 1 }

/-- A stroke seated at 1400. -/
def seated : Stroke := { engaged with seatedDepth := some 1400, remainingDwell := 100000 }

/-- The same with no dwell left. -/
def dwelt : Stroke := { seated with remainingDwell := 0 }

/-- A stroke with its outcome, retracting to −800. -/
def ended : Stroke := { engaged with outcome := some .seatedPass, retractTarget := some (-800) }

/-- The part with a PRESS stroke in a phase. -/
def pressing (ph : Phase) (ctx : Stroke) : State := part (.stroke ph (job .press) smallTable ctx)

/-- The part with a PRESS stroke in a phase, its silence timer run out. -/
def silent (ph : Phase) (ctx : Stroke) : State := (pressing ph ctx).setSilence .b (some 0)

/-- A sample with a displacement and six raw values. -/
def sample (displacement : Int) (raws : List Int) : Sample :=
  { sequence := 42, encoderFault := false, saturation := 0, laneCount := 6, displacement := displacement, raws := raws }

/-- The frame of a sample with the raw values of the zeros: every force 0. -/
def quiet (displacement : Int) : Sample := sample displacement [12, -40, 7, -120, 0, -3]

/-- The first measured frame of 6.8, at a displacement. -/
def loaded (displacement : Int) : Sample := sample displacement [15, -44, 7, 1100, 2, 1]

/-- A busy port: a reply pending. -/
def busy : PortUnit :=
  { PortUnit.reset with reply := some { code := 1, status := .ok, more := false, payload := [] } }

/-- The next state of a command; the state given where there is none. -/
def after (c : Instr) (s : State) : State :=
  match exec c s with
  | .next t => t
  | .fault _ => s
  | .refused _ => s

/-- The tally of a lane in a stroke. -/
def tallyOf (e : Engine) (lane : Nat) : Option LaneTally :=
  match e with
  | .stroke _ _ _ ctx => ctx.lanes[lane]?
  | .idle => none
  | .composing _ => none
  | .armed _ _ => none

/-- The status and payload of a port's pending reply. -/
def replyOf (u : PortUnit) : Option (Status × List Byte) := u.reply.map (fun r => (r.status, r.payload))

/-! ## Worked examples, each about one operation or one step -/

/-- The station counts of the table of 5.3. -/
theorem test_station_counts :
    stationCount { Site.undefined with seatDepth := 1500, seatTolerance := 150 } 50 = 34 ∧
      stationCount { Site.undefined with seatDepth := 3000, seatTolerance := 200 } 25 = 129 ∧
      stationCount { Site.undefined with seatDepth := 3000, seatTolerance := 200 } 26 = 124 ∧
      stationCount { Site.undefined with seatDepth := 6000, seatTolerance := 1000 } 55 = 128 ∧
      stationCount { Site.undefined with seatDepth := 100, seatTolerance := 0 } 200 = 1 := by decide

/-- The bounds of lane 3 at stations 0, 6, 8, 13, 20 and 33 of 5.5. -/
theorem test_composed_bounds :
    [0, 6, 8, 13, 20, 33].map (boundsAt table 3) =
      [some ⟨0, 1260⟩, some ⟨2850, 7980⟩, some ⟨3165, 8577⟩, some ⟨5097, 12899⟩, some ⟨7018, 17323⟩,
       some ⟨7030, 18060⟩] := by decide +kernel

/-- The station count, the seat total and the used lanes of 5.5. -/
theorem test_composed_table :
    table.stationCount = some 34 ∧ table.seatTotal = 15000 ∧
      table.lanes.map EnvelopeLane.used = [false, false, false, true, false, false] := by decide +kernel

/-- The composition of 5.5 ends ARMED, with ARMED for head B and site 24 in both queues. -/
theorem test_composition_armed :
    engineState (after (.compositionCompletion .b) (part (.composing (job .press)))).headB.engine = .armed ∧
      (after (.compositionCompletion .b) (part (.composing (job .press)))).portB.queue.items = [armedNotice .b 24] := by
  decide +kernel

/-- The tare of 6.8. -/
theorem test_tare_zero : tareZero (-960) = -120 := by decide

/-- The two frames of 6.8. -/
theorem test_measured_frames :
    measureLanes tool.lanes [12, -40, 7, -120, 0, -3] [15, -44, 7, 1100, 2, 1] = [3, 0, 0, 10007, 2, 4] ∧
      measureLanes tool.lanes [12, -40, 7, -120, 0, -3] [14, -41, 9, 1480, 3, 0] = [2, 0, 2, 13125, 3, 3] := by decide

/-- The conflicts of the table of 3.3, under K = 3000. -/
theorem test_keep_out_table :
    let s : State :=
      { State.reset with
          map :=
            { BoardMap.reset with
                keepOut := 3000,
                sites :=
                  [(0, { Site.undefined with x := 12000, y := 8000 }), (1, { Site.undefined with x := 14500, y := 10800 }),
                   (2, { Site.undefined with x := 15000, y := 8100 }), (3, { Site.undefined with x := 12000, y := 8000 })] } }
    s.conflict 0 1 = true ∧ s.conflict 0 2 = false ∧ s.conflict 0 3 = true ∧ s.conflict 0 0 = false := by decide +kernel

/-- LOCK_SITES(20, 60) of 1.7 against a held site 24: it stops there with 40 of the clamped 44 remaining. -/
theorem test_lock_run_stops :
    replyOf (after (.lockSites .cell 20 60) (part .idle)).cell = some (.refusedState, [24, 40]) ∧
      (after (.lockSites .cell 20 60) (part .idle)).locked 23 = true ∧
      (after (.lockSites .cell 20 60) (part .idle)).locked 24 = false := by decide +kernel

/-- UNLOCK_SITES of the same run is clamped and does not stop. -/
theorem test_unlock_run :
    replyOf (after (.unlockSites .cell 20 60) (part .idle)).cell = some (.okClamped, [64, 0]) := by decide +kernel

/-- Pitch 5 is stored as 10 (2.6). -/
theorem test_pitch_clamped :
    replyOf (after (.setHead .cell 0 0 5) State.reset).cell = some (.okClamped, [0, 0, 10, 0, 0, 0]) ∧
      (after (.setHead .cell 0 0 5) State.reset).headA.settings.judged.stationPitch = 10 := by decide +kernel

/-- A gain of 0 is stored as 1, and a lane ceiling above 16777215 as 16777215 (R25). -/
theorem test_tool_clamped :
    (after (.setTool .cell 0 1 2 [⟨0, 16777216⟩]) State.reset).headA.tool.lanes = [⟨1, 16777215⟩] ∧
      (replyOf (after (.setTool .cell 0 1 2 [⟨0, 16777216⟩]) State.reset).cell).map Prod.fst = some .okClamped := by
  decide +kernel

/-- Step 2 of 4.6: breakpoint 2 fails DEPTH_ORDER. -/
theorem test_profile_depth_order :
    replyOf
        (after (.writeProfile .cell 0 3 3 4000 [⟨0, 0, 300⟩, ⟨350, 1500, 3500⟩, ⟨350, 2500, 5200⟩]) State.reset).cell =
      some (.range, [3, 2]) := by decide +kernel

/-- Steps 4 and 8 of 4.6, with both engines IDLE: generation 5 to 6, and SWAP_DONE in all three queues. -/
theorem test_swap_at_once :
    replyOf (after (.swapBanks .cell) (part .idle)).cell = some (.pending, [0, 6, 0]) ∧
      (after (.swapBanks .cell) (part .idle)).library.active = .zero ∧
      (after (.swapBanks .cell) (part .idle)).portA.queue.items = [swapDone 6] := by decide +kernel

/-- A claim of head A near site 24 waits behind it: 2000 and 3000 apart is clear, 2000 and 2800 is not. -/
theorem test_claim_waits :
    replyOf (after (.claim .headA 10 0 0) (part .idle)).portA = some (.ok, [10, 0]) ∧
      replyOf
          (after (.claim .headA 10 0 1) { part .idle with map := { (part .idle).map with keepOut := 3001 } }).portA =
        some (.waiting, [10, 24]) := by decide +kernel

/-- RELEASE returns site 24 to PENDING and is answered with the site. -/
theorem test_release :
    replyOf (after (.release .headB) (part .idle)).portB = some (.ok, [24]) ∧
      ((after (.release .headB) (part .idle)).site 24).state = .pending := by decide +kernel

/-- The contact frame at 1200 evaluates station 0 (7.14); here 10007 is above its upper of 1260. -/
theorem test_contact_frame :
    let u := (after (.sampleFrame .b (encodeSample (loaded 1200))) (pressing .approach tared)).headB
    engineState u.engine = .engage ∧ stationIndexOf u.engine = 1 ∧
      tallyOf u.engine 3 = some { peak := 10007, excursions := 1, first := some 0 } := by decide +kernel

/-- The seating frame at 2600: DWELL, with PERMIT withdrawn (7.14). -/
theorem test_seating_frame :
    let u := (after (.sampleFrame .b (encodeSample (sample 2600 [12, -40, 7, 1709, 0, -3]))) (pressing .engage engaged)).headB
    engineState u.engine = .dwell ∧ permitLevel u = false := by decide +kernel

/-- The dwell's expiry gives SEATED_PASS: the record of site 24, and STROKE_VERDICT (7.14). -/
theorem test_dwell_expiry :
    let t := after (.dwellTimerExpiry .b) (pressing .dwell dwelt)
    (t.record 24).outcome = .seatedPass ∧ (t.record 24).bankGeneration = 5 ∧
      [800, 803, 804].map t.verdict = [.pass, .pass, .empty] ∧
      t.cell.queue.items = [verdictNotice .b (job .press) dwelt .seatedPass false] := by decide +kernel

/-- The frame at −850 ends the stroke: site 24 SEATED, the claim gone (7.14); the frame at −500 does not. -/
theorem test_retract_end :
    ((after (.sampleFrame .b (encodeSample (quiet (-850)))) (pressing .retract ended)).site 24).state = .seated ∧
      (after (.sampleFrame .b (encodeSample (quiet (-500)))) (pressing .retract ended)).headB.claim =
        some { site := 24, kind := .press } := by decide +kernel

/-- A frame of five lanes in APPROACH is SENSOR_FAULT (6.7). -/
theorem test_lane_count_fault :
    let u := (after (.sampleFrame .b (encodeSample { quiet 0 with laneCount := 5, raws := [0, 0, 0, 0, 0] }))
      (pressing .approach fresh)).headB
    engineState u.engine = .faulted ∧ stopLevel u = true ∧ u.link.silence = none := by decide +kernel

/-- Silence faults the stroke LINK_LOST (R104). -/
theorem test_silence :
    let t := after (.silenceTimerExpiry .b) (silent .engage engaged)
    (t.record 24).outcome = .linkLost ∧ (t.portB.queue.items.map Notice.kind) = [.strokeFault] := by decide +kernel

/-- A frame taken before the expiry restarts the timer, and the expiry does not come (R104). -/
theorem test_silence_restarted :
    let t := after (.sampleFrame .b (encodeSample (quiet 1200))) (silent .engage engaged)
    t.headB.link.silence = some 5000 ∧ after (.silenceTimerExpiry .b) t = t := by decide +kernel

/-- A breach in RETRACT, of the head ceiling alone: every installed lane offends, and the record keeps its outcome (R116,
R133). -/
theorem test_late_breach :
    let t := after (.sampleFrame .b (encodeSample (sample 0 [12, -40, 7, 7280, 0, -3]))) (pressing .retract ended)
    t.headB.engine = .stroke .faulted (job .press) smallTable { ended with offending := [0, 1, 2, 3, 4, 5] } ∧
      t.headB.lines.stop = true := by decide +kernel

/-- A frame cut by a hard reset is lost, and the next one is accepted (R97). -/
theorem test_hard_reset_cut :
    let cut := State.reset.modHead .a (fun u => { u with link := { u.link with awaitIdle := true } })
    let t := after (.sampleFrame .a (encodeSample (quiet 0))) cut
    t = State.reset ∧
      (after (.sampleFrame .a (encodeSample (quiet 0))) t).headA.link.lastFrame = some (quiet 0) := by decide +kernel

/-- A second hard reset while the rest of a cut frame is still to come: the receiver goes on waiting (R97). -/
theorem test_hard_reset_waiting :
    let cut := State.reset.modHead .a (fun u => { u with link := { u.link with awaitIdle := true } })
    (after .hardReset cut).headA.link.awaitIdle = true := by decide

/-- An ABORT after contact: OK, and the target 1200 − 2000 = −800 (7.15). -/
theorem test_abort_after_contact :
    let t := after (.abort .cell (some 1)) (pressing .engage engaged)
    replyOf t.cell = some (.ok, []) ∧
      t.headB.engine =
        .stroke .retract (job .press) smallTable { engaged with outcome := some .aborted, retractTarget := some (-800) } := by
  decide +kernel

/-- A latched hold during dwell: INTERLOCK_HOLD, and RESUME is refused while the curtain is broken (8.10). -/
theorem test_latched_hold :
    let t := after (.interlockChange .b false) (pressing .dwell seated)
    engineState t.headB.engine = .held ∧ (t.cell.queue.items.map Notice.kind) = [.interlockHold] ∧
      replyOf (after (.resume .headB none) t).portB = some (.interlock, []) := by decide +kernel

/-- RESUME with the curtain clear returns to DWELL (8.10). -/
theorem test_resume :
    engineState (after (.resume .cell (some 1)) (pressing (.held .dwell) seated)).headB.engine = .dwell := by decide +kernel

/-- HEAD_CLEAR of a stroke after contact leaves site 24 PARTIAL (R131). -/
theorem test_head_clear :
    let t := after (.headClear .cell (some 1)) (pressing .engage engaged)
    (t.site 24).state = .partialIn ∧ t.headB.claim = none ∧ t.headB.engine = .idle := by decide +kernel

/-- RESTART reports the engine states before it, and asserts both STOP lines (R182). -/
theorem test_restart :
    let t := after (.restart .cell) (pressing .engage engaged)
    replyOf t.cell = some (.ok, [0, 4, 1, 7, 0, 5, 0, 0]) ∧ stopLevel t.headA = true ∧ (t.site 24).state = .partialIn := by
  decide +kernel

/-- A write cut by RESTART on Head Port A: the rest of its bytes is taken as nothing, and the next request is answered (R182). -/
theorem test_restart_drops_frame :
    let t := after (.restart .cell) (after (.unknown .headA [0xC1, 4]) State.reset)
    t.portA.reception = some (.lapsed false) ∧ (after (.unknown .headA [0, 0x01]) t).portA = t.portA ∧
      (replyOf (after (.identify .headA) t).portA).map Prod.fst = some .ok := by decide +kernel

/-- A read cut by RESTART on Head Port A clocks out 00 for the rest of its bytes and reads no reply (R182). -/
theorem test_restart_drops_read :
    let t := after (.restart .cell) (after (.unknown .headA [0xC2, 0, 0]) { State.reset with portA := busy })
    (after (.incompleteFrame .headA [0, 0, 0]) t).portA = { PortUnit.reset with wire := [5, 0, 0, 0, 0] } := by
  decide +kernel

/-- A write left short of its frame's last byte by the next transaction sets the mark, which the next reply carries; a read
left short does not (R175). -/
theorem test_write_left_short :
    let t := after (.identify .headA) (after (.unknown .headA [0xC1, 4]) State.reset)
    (replyOf t.portA).map Prod.fst = some .ok ∧ t.portA.discarded = true ∧ t.portA.reception = none ∧
      (after (.replyRead .headA) (after (.unknown .headA [0xC1, 4]) { State.reset with portA := busy })).portA.wire[4]? =
        some 2 ∧
      (after (.replyRead .headA) (after (.unknown .headA [0xC2, 0]) { State.reset with portA := busy })).portA.wire[4]? =
        some 0 := by decide +kernel

/-- START: APPROACH, PERMIT active, site 24 PRESSING (7.14). -/
theorem test_start :
    let t := after (.start .headB) (part (.armed (job .press) smallTable))
    engineState t.headB.engine = .approach ∧ permitLevel t.headB = true ∧ (t.site 24).state = .pressing ∧
      t.headB.link.silence = some 5000 := by decide +kernel

/-- ARM of head B is accepted with the snapshot of the moment (R79). -/
theorem test_arm :
    (after (.arm .headB) (part .idle)).headB.engine = .composing (job .press) := by decide +kernel

/-- Steps 1 to 3 of 11.7: a NORMAL notice is dropped from a full queue, an URGENT one displaces the newest NORMAL one. -/
theorem test_queue_overflow :
    let q : NoticeQueue := { items := List.replicate 16 (armedNotice .a 9), overrun := false }
    (arrive q (armedNotice .a 10)) = { q with overrun := true } ∧
      arrive q (lateFaultNotice .a (job .press) .overforce) =
        { items := lateFaultNotice .a (job .press) .overforce :: List.replicate 15 (armedNotice .a 9), overrun := true } := by
  decide +kernel

/-- FETCH_NOTICE of an empty queue, and IDENTIFY on Head Port A, after reset (R180, R185). -/
theorem test_port_replies :
    replyOf (after (.fetchNotice .cell) State.reset).cell = some (.empty, [0]) ∧
      replyOf (after (.identify .headA) State.reset).portA =
        some (.ok, [3, 64, 0, 16, 16, 8, 2, 128, 16, 2, 0, 0, 0, 0, 0, 0, 1]) := by decide +kernel

/-- HEAD_STATUS of head A after reset: IDLE, no claim, STOP asserted, the interlock inactive, no frame (12.4). -/
theorem test_head_status :
    replyOf (after (.headStatus .headA none) State.reset).portA =
      some (.ok, [0, 0, 255, 255, 255, 255, 255, 0, 2, 0, 0, 0, 0, 0, 0, 0, 0, 0, 0]) := by decide +kernel

/-- The empty form of a Press Record is 30 bytes (12.4). -/
theorem test_empty_record :
    (replyOf (after (.readRecord .cell 5) State.reset).cell).map (fun r => r.2.length) = some 30 := by decide +kernel

/-- The second READ_PINS of 9.8: 256 asked from position 2 of a site of 5 pins, clamped to 3. -/
theorem test_read_pins_clamped :
    replyOf (after (.readPins .cell 24 2 0) (part .idle)).cell =
      some (.okClamped, [24, 2, 0, 3, 0, 3, 0x22, 3, 0, 0, 0, 0x23, 3, 0, 0, 0, 0x24, 3, 0, 0, 0]) := by decide +kernel

/-- READ_SITES of two sites: 24 CLAIMED by head B, and 25 undefined (R166). -/
theorem test_read_sites :
    replyOf (after (.readSites .cell 24 2) (part .idle)).cell =
      some (.ok, [24, 2, 2, 24, 2, 1, 0, 0, 25, 0, 255, 0, 0]) := by decide +kernel

/-- A reply is read whole, and the port is free again (R175). -/
theorem test_reply_read :
    (after (.replyRead .cell) { State.reset with cell := busy }).cell = { PortUnit.reset with wire := [5, 0, 1, 0, 0] } := by
  decide +kernel

/-- Two bytes clocked out beyond a reply of 5 read as 00 (R186). -/
theorem test_read_beyond :
    (after (.unknown .cell [0xC2, 0, 0, 0, 0, 0, 0, 0]) { State.reset with cell := busy }).cell =
      { PortUnit.reset with wire := [5, 0, 1, 0, 0, 0, 0] } := by decide +kernel

/-- A record written during a READ_PINS of its site: the block formed before is delivered, then RECORD_CHANGED (R165). -/
theorem test_record_changed :
    let s := after (.readPins .cell 24 0 0) { pressing .dwell dwelt with blockSize := 4 }
    let t := after (.replyRead .cell) (after (.dwellTimerExpiry .b) s)
    replyOf t.cell = some (.recordChanged, [24, 4, 0, 5, 0, 0]) ∧
      portFree (after (.replyRead .cell) t).cell := by decide +kernel

/-- A frame that arrives while a reply waits is discarded (R176). -/
theorem test_discarded :
    (after (.discardedFrame .cell [0xC1, 4, 0, 2]) { State.reset with cell := busy }).cell =
      { busy with discarded := true } := by decide +kernel

/-- An unknown code is answered UNKNOWN, a length of 3 FRAME_ERROR (R177). -/
theorem test_port_answers :
    replyOf (after (.unknown .headA [0xC1, 4, 0, 0x10]) State.reset).portA = some (.unknown, []) ∧
      replyOf (after (.unknown .cell [0xC1, 3, 0]) State.reset).cell = some (.frameError, []) := by decide +kernel

/-- The steps of 8.11: FORCE_ON is refused STOPPED, then taken, then MAP_ACTIVATE is refused LINE_FORCED. -/
theorem test_force_on :
    replyOf (after (.setLine .cell 0 0 2) State.reset).cell = some (.stopped, []) ∧
      replyOf (after (.mapActivate .cell)
        { State.reset with headA := { HeadUnit.reset with lines := { Lines.reset with override := .forceOn } } }).cell =
        some (.lineForced, []) := by decide +kernel

/-- A board that fails NO_LIVE_PIN at site 0 (R12). -/
theorem test_activation_fails :
    replyOf (after (.mapActivate .cell)
      { State.reset with
          map := { BoardMap.reset with sites := [(0, { Site.undefined with state := .pending, pinCount := 1 })] } }).cell =
      some (.invalidMap, [0, 4, 255]) := by decide +kernel

/-- DISPOSE_SITE of a REJECTED site, and of a PENDING one (R19). -/
theorem test_dispose :
    ((after (.disposeSite .cell 11) (part .idle)).site 11).state = .pending ∧
      replyOf (after (.disposeSite .cell 10) (part .idle)).cell = some (.refusedState, []) := by decide +kernel

/-- A distance above 20000 is stored as 20000 (R10). -/
theorem test_keepout_clamped :
    (after (.setKeepout .cell 20001) State.reset).map.keepOut = 20000 := by decide +kernel

/-! ## Witnesses: for each statement with hypotheses, a state and operands that meet them, clause by clause -/

/-- Every port is free after reset, and in the part of the worked examples. -/
theorem witness_free_ports :
    (∀ p, portFree (State.reset.port p)) ∧ (∀ p, portFree ((part .idle).port p)) ∧
      (∀ p, portFree ((pressing .engage engaged).port p)) := by
  refine ⟨?_, ?_, ?_⟩ <;> intro p <;> cases p <;> decide

theorem witness_IdleStepPassesMicrosecond :
    (pressing .dwell seated).pending = [] ∧
      (pressing .dwell seated).headB.engine = .stroke .dwell (job .press) smallTable seated ∧
      engineState (pressing .dwell seated).headA.engine ≠ .dwell := by decide +kernel

theorem witness_BusyPortDiscardsRequests :
    requestPort (.endTransfer .cell) = some .cell ∧ ¬ portFree busy ∧ Instr.endTransfer .cell ≠ .restart .cell ∧
      busy.transfer = none := by decide

theorem witness_PortJudgesFrames :
    let long : Instr := .writePins .cell 0 32 (List.replicate 32 ⟨1, 0, 0, 0, 0, 0, 0⟩)
    256 < frameLength long ∧
      (frameLength (.claim .cell 0 0 0) ≤ 256 ∧ codeListed .cell (requestCode (.claim .cell 0 0 0)) = false) ∧
      (frameLength (.writePins .cell 0 30 (List.replicate 31 ⟨1, 0, 0, 0, 0, 0, 0⟩)) = 255 ∧
        codeListed .cell (requestCode (.writePins .cell 0 30 (List.replicate 31 ⟨1, 0, 0, 0, 0, 0, 0⟩))) = true ∧
        lengthAgrees .cell (.writePins .cell 0 30 (List.replicate 31 ⟨1, 0, 0, 0, 0, 0, 0⟩)) = false) := by decide +kernel

theorem witness_FramesOnBusyOrCutShortOnlyMark :
    readTransaction (clockedBytes PortUnit.reset [0xC1, 5, 0, 4]) = .incomplete ∧
      arrives (clockedBytes busy [0xC1, 5, 0, 4, 0]) = true ∧ ¬ portFree busy ∧
      readTransaction (clockedBytes busy [0xC1, 5, 0, 4, 0]) = .frame 4 [0] ∧
      parseRequest .cell 4 [0] ≠ some (.restart .cell) ∧ parseRequest .cell 4 [0] ≠ some (.endTransfer .cell) ∧
      readTransaction (clockedBytes busy [0xC1, 4, 0, 5]) = .frame 5 [] ∧ parseRequest .cell 5 [] = some (.restart .cell) ∧
      parseRequest .cell 7 [] = some (.endTransfer .cell) ∧
      (after (.readSites .cell 0 9) (part .idle)).cell.transfer ≠ none ∧
      (after (.unknown .headA [0xC1, 4, 0]) State.reset).portA.reception = some (.bytes [0xC1, 4, 0]) ∧
      readTransaction [0xC1, 4, 0] = .incomplete ∧ requestPort (.identify .headA) = some .headA ∧
      (after (.unknown .headA [0xC2, 0]) { State.reset with portA := busy }).portA.reception = some (.bytes [0xC2, 0]) ∧
      readTransaction [0xC2, 0] ≠ .incomplete := by
  decide +kernel

theorem witness_UnknownFrameAnswered :
    readTransaction [0xC1, 4, 0] = .incomplete ∧ readTransaction [0xC1, 3, 0] = .badLength ∧ readTransaction [0xC1, 1, 1] = .badLength ∧
      readTransaction [0xC1, 4, 0, 8] = .frame 8 [] ∧ codeListed .cell 8 = false ∧
      readTransaction [0xC1, 4, 0, 4] = .frame 4 [] ∧ codeListed .cell 4 = true ∧ parseRequest .cell 4 [] = none ∧
      parseRequest .cell 4 [63] = some (.readRecord .cell 63) := by decide

theorem witness_ReplyReadDelivers :
    PortUnit.reset.reply = none ∧ (busy.reply.map Reply.more) = some false ∧
      (let u := (after (.readSites .cell 0 9) (part .idle)).cell
       (u.reply.map Reply.more) = some true ∧ u.transfer.isSome) ∧
      (let s := after (.readPins .cell 24 0 0) { pressing .dwell dwelt with blockSize := 4 }
       (s.cell.transfer.map Transfer.overtaken) = some false ∧
        ((after (.dwellTimerExpiry .b) s).cell.transfer.map Transfer.overtaken) = some true) ∧
      readTransaction [0xC2, 0, 0, 0, 0] = .read 4 ∧ (replyBytes { code := 1, status := .ok, more := false, payload := [] }
        false).length = 5 ∧ readTransaction [0xC2, 0, 0, 0, 0, 0] = .read 5 := by decide +kernel

theorem witness_SitesReadoutBlocks :
    portFree (part .idle).cell ∧ 0 < (part .idle).blockSize ∧ (63 : Byte).toNat < 64 ∧
      (64 = if (0 : Byte).toNat = 0 then 64 else (0 : Byte).toNat) ∧ 1 = min 64 (64 - (63 : Byte).toNat) ∧
      63 < (64 : Byte).toNat := by decide

theorem witness_TransferControls :
    let t := after (.readSites .cell 0 9) (part .idle)
    t.cell.transfer.isSome = true ∧ portFree (part .idle).cell := by decide +kernel

theorem witness_HeadStatusReports :
    portFree (part .idle).portB ∧ portFree (part .idle).cell ∧ (1 : Nat) < (2 : Byte).toNat := by decide

theorem witness_ReadRecordReturns :
    portFree (part .idle).cell ∧ 63 < (64 : Byte).toNat ∧ (63 : Byte).toNat ≤ 63 ∧
      ((after (.dwellTimerExpiry .b) (pressing .dwell dwelt)).record 24).lanes[5]? =
        some { used := false, peak := 0, excursions := 0, first := none, verdict := .unused } := by decide +kernel

theorem witness_QueueTakesAndGives :
    queueLaw { items := List.replicate 15 (armedNotice .a 9), overrun := true } ∧
      queueLaw { items := List.replicate 16 (armedNotice .a 9), overrun := false } ∧
      queueLaw { items := lateFaultNotice .a (job .press) .overforce :: List.replicate 15 (armedNotice .a 9),
                 overrun := false } ∧
      (part .idle).cell.queue.items = [] ∧
      (after (.swapBanks .cell) (part .idle)).portA.queue.items = [swapDone 6] := by decide +kernel

/-- The fields of WRITE_SITE at the ends of their ranges. -/
theorem witness_WriteSiteStores :
    portFree State.reset.cell ∧ (part .idle).map.mode = .active ∧ State.reset.map.mode = .edit ∧
      (63 < (64 : Byte).toNat) ∧
      (let f : SiteFields := ⟨0, 0, 7, 0, 0, 0, 6000, 1000⟩
       ¬ (63 < (63 : Byte).toNat ∨ 7 < f.toolCode.toNat ∨ f.seatDepth.toNat < 100 ∨ 6000 < f.seatDepth.toNat ∨
          1000 < f.seatTolerance.toNat)) := by decide

theorem witness_ClearSiteUndefines :
    portFree State.reset.cell ∧ (part .idle).map.mode = .active ∧ State.reset.map.mode = .edit ∧
      63 < (64 : Byte).toNat ∧ ¬ 63 < (63 : Byte).toNat := by decide

theorem witness_WritePinsStores :
    let e : PinEntry := ⟨2, 15, 3, 7, 2000, 0, 0⟩
    portFree State.reset.cell ∧ State.reset.map.mode = .edit ∧ (part .idle).map.mode = .active ∧
      [e].length = (1 : Byte).toNat ∧ (4095 : Half).toNat + (1 : Byte).toNat - 1 ≤ 4095 ∧
      4095 < (4096 : Half).toNat + (1 : Byte).toNat - 1 ∧
      (∀ x ∈ [e], x.lane.toNat ≤ 15 ∧ x.pinType.toNat ≤ 3 ∧ x.holeClass.toNat ≤ 7 ∧ x.entryOffset.toNat ≤ 2000) := by
  decide +kernel

/-- A board whose one site passes every check, and one that fails NO_LIVE_PIN. -/
theorem witness_ActivationJudged :
    let good : State :=
      { State.reset with
          map :=
            { BoardMap.reset with
                sites := [(3, { Site.undefined with state := .pending, pinCount := 1 })], pins := [(0, pinOf true 0 0)] } }
    (definedAt good 3 ∧ SitePasses good 3) ∧
      (let bad : State := { good with map := { good.map with pins := [] } }
       definedAt bad 3 ∧ (∀ j, j < 3 → definedAt bad j → SitePasses bad j) ∧ SiteFails bad 3 .noLivePin none) := by
  have only : ∀ (pins : Table Pin) (j : Nat),
      definedAt { State.reset with
        map := { BoardMap.reset with
          sites := [(3, { Site.undefined with state := .pending, pinCount := 1 })], pins := pins } } j → j = 3 := by
    intro pins j hj
    by_contra hne
    exact hj.2 (by simp [State.site, Table.get, Site.undefined, Ne.symm hne])
  refine ⟨⟨by decide, ⟨by decide, by decide, fun j hj hne => absurd (only _ j hj) hne, 0, by decide, by decide⟩⟩, ?_⟩
  refine ⟨by decide, fun j hlt hj => absurd (only _ j hj) (by omega), ?_⟩
  refine .noLivePin (by decide) (by decide) (fun j hj hne => absurd (only _ j hj) hne) ?_
  intro k _
  rfl

theorem witness_MapEditReturns :
    State.reset.map.mode = .edit ∧ (part .idle).map.mode = .active ∧ ((part .idle).site 24).state = .claimed ∧
      (let s : State := { State.reset with map := { BoardMap.reset with mode := .active } }
       s.map.mode = .active ∧ s.headA.engine = .idle ∧ s.headB.engine = .idle ∧ s.headA.waiting = none) := by
  decide +kernel

/-- A run that stops at a held site, one that does not, and one that is clamped. -/
theorem witness_LockFlagRuns :
    (let m := 4
     4 < min (60 : Byte).toNat (64 - (20 : Byte).toNat) ∧
      (∀ j, j < m → ((part .idle).site (20 + j)).state ≠ .claimed ∧ ((part .idle).site (20 + j)).state ≠ .pressing) ∧
      ((part .idle).site (20 + m)).state = .claimed) ∧
    (∀ j, j < 1 → (State.reset.site (63 + j)).state ≠ .claimed ∧ (State.reset.site (63 + j)).state ≠ .pressing) ∧
    1 = min (2 : Byte).toNat (64 - (63 : Byte).toNat) ∧ 63 < (64 : Byte).toNat := by decide +kernel

theorem witness_DisposeReturnsPending :
    ((part .idle).site 11).state = .rejected ∧ ((part .idle).site 10).state = .pending ∧ 63 < (64 : Byte).toNat := by
  decide

/-- A record that fails at its third breakpoint, one that fails its seat force, and one that passes. -/
theorem witness_WriteProfileJudged :
    entryFault [⟨0, 0, 300⟩, ⟨350, 1500, 3500⟩, ⟨350, 2500, 5200⟩] 2 = some .depthOrder ∧
      (∀ m, m < 2 → entryFault [⟨0, 0, 300⟩, ⟨350, 1500, 3500⟩, ⟨350, 2500, 5200⟩] m = none) ∧
      (∀ k, entryFault [⟨0, 0, 20000⟩, ⟨6000, 20000, 20000⟩] k = none) ∧ 20000 < (20001 : Half).toNat ∧
      (20000 : Half).toNat ≤ 20000 ∧ State.reset.library.swapPending = false := by
  refine ⟨by decide, by decide, ?_, by decide, by decide, by decide⟩
  intro k
  match k with
  | 0 => decide
  | 1 => decide
  | k + 2 => rfl

theorem witness_ShadowClearedCopiedRead :
    portFree State.reset.cell ∧ State.reset.library.swapPending = false ∧ (1 : Byte).toNat ≤ 1 ∧ (3 : Byte).toNat ≤ 3 ∧
      (7 : Byte).toNat ≤ 7 ∧ (Bank.one = State.reset.library.active ↔ (1 : Byte) = 0) ∧
      (Bank.zero = State.reset.library.active ↔ (0 : Byte) = 0) := by decide

/-- No swap pending with both engines IDLE, none pending with one at work, and one pending. -/
theorem witness_SwapWaitsForBothEngines :
    ((part .idle).library.swapPending = false ∧ (part .idle).headA.engine = .idle ∧ (part .idle).headB.engine = .idle) ∧
      ¬ ((pressing .engage engaged).headA.engine = .idle ∧ (pressing .engage engaged).headB.engine = .idle) ∧
      (after (.swapBanks .cell) (pressing .engage engaged)).library.swapPending = true ∧
      (after (.swapBanks .cell) (part .idle)).library.active ≠ (part .idle).library.active := by decide +kernel

theorem witness_ToolStored :
    portFree State.reset.cell ∧ [(⟨0, 16777216⟩ : LaneEntry)].length = (1 : Byte).toNat ∧ State.reset.headA.engine = .idle ∧
      State.reset.headA.claim = none ∧ State.reset.headA.waiting = none ∧ (part .idle).headB.claim ≠ none := by decide

theorem witness_SettingStored :
    portFree State.reset.cell ∧ (numericSettings.map (fun e => e.1)) = [0, 1, 2, 4, 5, 6, 7, 8, 9, 10] ∧
      ((5 : Word).toNat < 10 ∧ 12 < (13 : Byte).toNat) := by decide

/-- A HELD engine whose interlock is clear, and one whose guard is broken. -/
theorem witness_InterlockSettingsAct :
    (pressing (.held .dwell) seated).headB.engine = .stroke (.held .dwell) (job .press) smallTable seated ∧
      interlockActive (pressing (.held .dwell) seated).headB = false ∧
      (let t := after (.interlockChange .b false) (pressing .dwell seated)
       t.headB.engine = .stroke (.held .dwell) (job .press) smallTable seated ∧ interlockActive t.headB = true ∧
        t.headB.settings.interlockAction = .holdLatch) ∧
      (pressing (.held .dwell) seated).headB.settings.interlockPolarity = .activeLow := by decide +kernel

theorem witness_LineSet :
    portFree State.reset.cell ∧ State.reset.map.mode = .edit ∧ State.reset.headA.lines.stop = true ∧
      (part .idle).map.mode = .active ∧
      (let t := after (.headClear .cell (some 0)) State.reset
       t.map.mode = .edit ∧ t.headA.lines.stop = false) := by decide +kernel

/-- Head A claims site 10, two sites away from site 24 under the keep-out. -/
theorem witness_ClaimGranted :
    portFree ((part .idle).port (headPort .a)) ∧
      firstRefusal (claimChecks (part .idle) .a
        (((part .idle).head .a).claim.isSome || ((part .idle).head .a).waiting.isSome) 10 0 1) = none ∧
      ∀ j, ¬ Blocks (part .idle) .a 10 j := by
  refine ⟨by decide, by decide, ?_⟩
  rintro j ⟨⟨c, hc, rfl⟩, -, -, -, hy⟩
  obtain rfl : c = { site := 24, kind := .press } := by
    simpa [part, State.head, otherHead, State.reset] using hc.symm
  revert hy
  decide

/-- A claim that fails check 7, and one that only keep-out holds back. -/
theorem witness_ClaimRefusedInOrder :
    firstRefusal (claimChecks (part .idle) .a false 11 0 0) = some .refusedState ∧
      (let s : State := { part .idle with map := { (part .idle).map with keepOut := 3001 } }
       firstRefusal (claimChecks s .a false 10 0 1) = none ∧ Blocks s .a 10 24) := by
  refine ⟨by decide, by decide, ⟨_, rfl, rfl⟩, ?_⟩
  decide

/-- Head A waiting for site 10, due: granted, refused with the site locked, and blocked again. -/
theorem witness_ReevaluationOutcomes :
    let w : Wait := { site := 10, kind := .press, blocking := 24, due := true }
    let s : State := { part .idle with headA := { (part .idle).headA with waiting := some w } }
    firstRefusal (claimChecks s .a (s.head .a).claim.isSome w.site 0 1) = none ∧
      firstRefusal (claimChecks (s.setLock 10 true) .a false w.site 0 1) = some .locked ∧
      Blocks { s with map := { s.map with keepOut := 3001 } } .a 10 24 ∧ State.reset.headA.waiting = none := by
  refine ⟨by decide, by decide, ⟨⟨_, rfl, rfl⟩, ?_⟩, by decide⟩
  decide

theorem witness_ClaimGivenUp :
    State.reset.headB.claim = none ∧ (part .idle).headB.claim = some { site := 24, kind := .press } ∧
      ((part .idle).site 24).prior = some .pending ∧ engineState (part (.composing (job .press))).headB.engine = .composing ∧
      engineState (part (.armed (job .press) smallTable)).headB.engine = .armed ∧
      strokeRuns (pressing .engage engaged).headB.engine = true := by decide

theorem witness_ArmAccepted :
    (part .idle).headB.claim = some { site := 24, kind := .press } ∧ (part .idle).headB.engine = .idle ∧
      (part .idle).headB.lines.stop = false ∧ (part .idle).library.swapPending = false ∧
      (part (.composing (job .press))).headB.engine ≠ .idle := by decide

/-- The composition of 5.5, which passes, the same with no profile at type 1, which pin 802 fails, with a tool of three lanes,
which pin 800 fails, and at a pitch of 10, which gives 166 stations. -/
theorem witness_CompositionEnds :
    (part (.composing (job .press))).headB.engine = .composing (job .press) ∧
      (part (.composing (job .press))).compositionFault .b (job .press) = none ∧
      (let s : State :=
        { part (.composing (job .press)) with library := { (part .idle).library with bank1 := [(2, some typeZero)] } }
       s.compositionFault .b (job .press) = some { reason := .profileMissing, station := some 802, lane := none }) ∧
      (let s := (part (.composing (job .press))).modHead .b (fun u =>
        { u with tool := { tool with laneCount := 3, lanes := tool.lanes.take 3 } })
       s.compositionFault .b (job .press) = some { reason := .toolInvalid, station := some 800, lane := some 3 }) ∧
      (part (.composing (job .press))).compositionFault .b { job .press with settings := { snap with stationPitch := 10 } } =
        some { reason := .stationRange, station := some 166, lane := none } ∧
      engineState (part .idle).headB.engine ≠ .composing := by
  decide +kernel

theorem witness_EnvelopeWithinLaw :
    profileLaw typeZero ∧ snapshotLaw snap ∧ typeZero.points.head? = some ⟨0, 0, 300⟩ ∧
      typeZero.points[2]? = some ⟨900, 2500, 5200⟩ ∧ typeZero.points[3]? = some ⟨1600, 2000, 4600⟩ ∧
      table.lanes[3]?.bind EnvelopeLane.bounds ≠ none ∧
      profileAt (part .idle).library (part .idle).library.active 2 = some typeZero := by decide +kernel

theorem witness_StartBegins :
    let s := part (.armed (job .press) smallTable)
    portFree s.portB ∧ s.headB.engine = .armed (job .press) smallTable ∧ s.headB.lines.stop = false ∧
      interlockActive s.headB = false ∧ s.headB.lines.override = .engine := by decide

/-- A sound frame, a duplicate of it, bytes that are no frame, a frame whose last byte is not its CRC, and a receiver whose frame
a hard reset cut. -/
theorem witness_FrameReception :
    accepts (pressing .engage engaged) .b (encodeSample (quiet 1300)) (quiet 1300) ∧
      ((after (.sampleFrame .b (encodeSample (quiet 1300))) (part .idle)).headB.link.lastFrame.map Sample.sequence) =
        some 42 ∧ decodeSample [0xB6] = none ∧
      (let bad : List Byte := [0xB6, 42, 0, 0, 0, 0, 0xB0, 0x04, 0, 0, 0]
       bad[5]? = some 0 ∧ bad[10 + 2 * (0 : Byte).toNat]? ≠ some (crc ((bad.drop 1).take (9 + 2 * (0 : Byte).toNat)))) ∧
      (State.reset.modHead .b (fun u => { u with link := { u.link with awaitIdle := true } })).headB.link.awaitIdle =
        true := by
  refine ⟨⟨rfl, by decide +kernel, ?_⟩, by decide +kernel, by decide, by decide +kernel, by decide⟩
  intro g hg
  have none : ((pressing .engage engaged).head .b).link.lastFrame = none := rfl
  rw [none] at hg
  exact nomatch hg

theorem witness_TareFramesTaken :
    let s := pressing .approach fresh
    (s.head .b).engine = .stroke (phaseOf false .approach) (job .press) smallTable fresh ∧ fresh.tareCount < 8 ∧
      ¬ faultyFrame (s.head .b).tool (quiet 3000) ∧
      (∀ k, k < (s.head .b).tool.laneCount → (quiet 3000).saturation.getLsbD k = false) ∧
      fresh.tareSums.length = (quiet 3000).raws.length ∧ (quiet 3000).displacement ≤ (s.site 24).contactLimit ∧
      (s.site 24).contactLimit < (quiet 3001).displacement := by decide +kernel

/-- Measured frames in each state that breach no limit: one that makes contact, one past the contact limit. -/
theorem witness_MeasuredFramesByState :
    (∀ l, (pressing (phaseOf true l) tared).headB.engine = .stroke (phaseOf true l) (job .press) smallTable tared) ∧
      8 ≤ tared.tareCount ∧
      hardLimits tool snap (loaded 1200) ((pressing .approach tared).forces .b tared (loaded 1200)) = none ∧
      snap.contactThreshold ≤ ((pressing .approach tared).forces .b tared (loaded 1200)).sum ∧
      ((pressing .approach tared).forces .b tared (quiet 3001)).sum < snap.contactThreshold := by
  refine ⟨fun l => rfl, ?_⟩
  decide +kernel

theorem witness_StationsEvaluated :
    0 < (job .press).settings.stationPitch ∧
      reachedStations 2 1 50 (1250 - 1200) = [1] ∧ reachedStations 2 1 50 (1249 - 1200) = [] := by decide

/-- The decisions of an ENGAGE frame: the seat window 1350..1650 at its ends, and a VERIFY table. -/
theorem witness_EngageDecides :
    ((site24 .pressing).seatDepth - (site24 .pressing).seatTolerance = 1350) ∧ smallTable.seatTotal = 15000 ∧
      snap.failAction = .stop ∧ 0 < snap.dwell ∧
      (({ smallTable with stationCount := none, verifyThreshold := some 12000 } : Envelope).verifyThreshold = some 12000) ∧
      (job .verify).kind = .verify := by decide

/-- A saturated tare frame, a breach of the head ceiling, and a silence timer with no time left and with some, in a stroke and in
RETRACT; a saturated frame in RETRACT with and without tare zeros. -/
theorem witness_FaultsStopHead :
    (let f := { quiet 0 with saturation := 2 }
     ¬ faultyFrame tool f ∧ f.saturation.getLsbD 1 = true ∧ (∀ m, m < 1 → f.saturation.getLsbD m = false)) ∧
      faultyFrame tool { quiet 0 with encoderFault := true } ∧
      hardLimits tool snap (sample 0 [12, -40, 7, 7280, 0, -3])
        ((pressing .engage engaged).forces .b engaged (sample 0 [12, -40, 7, 7280, 0, -3])) =
        some { offending := [0, 1, 2, 3, 4, 5], faultLane := none } ∧
      (silent .engage engaged).headB.link.silence = some 0 ∧ (silent .retract ended).headB.link.silence = some 0 ∧
      (pressing .engage engaged).headB.link.silence ≠ some 0 ∧
      (silent .faulted ended).headB.link.silence = some 0 ∧ engineState (silent .faulted ended).headB.engine = .faulted ∧
      (pressing .retract ended).retractLimits .b (job .press) ended { quiet 0 with saturation := 2 } =
        some { offending := [0, 1, 2, 3, 4, 5], faultLane := some 1 } ∧
      (pressing .retract fresh).retractLimits .b (job .press) fresh { quiet 0 with saturation := 2 } =
        some { offending := [0, 1, 2, 3, 4, 5], faultLane := some 1 } ∧
      (pressing .retract ended).headB.engine = .stroke .retract (job .press) smallTable ended ∧
      ended.tareZeros ≠ none ∧ fresh.tareZeros = none := by decide +kernel

/-- The targets of a seated stroke, of one past its contact limit in the tare, whose target is its start, and of one aborted
before its first frame, which has none. -/
theorem witness_RetractEnds :
    (pressing .retract ended).retractLimits .b (job .press) ended (quiet (-800)) = none ∧
      (let early := { fresh with tareCount := 1, startDisplacement := some 3001, outcome := some .noContact, retractTarget := some 3001 }
       (pressing .retract early).retractLimits .b (job .press) early (quiet 3001) = none ∧ early.tareZeros = none) ∧
      (let aborted := { fresh with outcome := some .aborted }
       (pressing .retract aborted).retractLimits .b (job .press) aborted (quiet 0) = none ∧ aborted.retractTarget = none) ∧
      ended.retractTarget = some (-800) ∧ (quiet (-800)).displacement ≤ -800 ∧ (-800) < (quiet (-799)).displacement ∧
      ended.outcome = some .seatedPass ∧ ((pressing .retract ended).site 24).prior = some .pending := by decide +kernel

theorem witness_StrokeFate :
    StrokeFate 24 .press true false .pending .seatedPass (.released 24 .seated) := .seated rfl

theorem witness_DwellAndPulseEnd :
    (pressing .dwell dwelt).headB.engine = .stroke .dwell (job .press) smallTable dwelt ∧ dwelt.remainingDwell = 0 ∧
      (∀ l ∈ dwelt.lanes, l.excursions ≤ snap.excursionAllowance) ∧ seated.remainingDwell ≠ 0 ∧
      engineState (part .idle).headB.engine ≠ .dwell ∧ (part .idle).headB.lines.pulse ≠ some 0 ∧
      ((part .idle).modLines .b (fun l => { l with pulse := some 0 })).headB.lines.pulse = some 0 := by decide

/-- The INTERLOCK input falls under ACTIVE_LOW, and rises again. -/
theorem witness_InterlockActs :
    interlockActive (pressing .dwell seated).headB = false ∧
      interlockActive ((pressing .dwell seated).modHead .b (fun w =>
        { w with lines := { w.lines with interlockHigh := false } })).headB = true ∧
      (pressing .dwell seated).headB.settings.interlockAction ≠ .abort ∧
      interlockActive (after (.interlockChange .b false) (pressing .dwell seated)).headB = true := by decide +kernel

theorem witness_AbortAndResume :
    reaches .headB none .b ∧ reaches .cell (some 1) .b ∧ portFree ((pressing .engage engaged).port .cell) ∧
      (pressing (.held .dwell) seated).headB.engine = .stroke (phaseOf true .dwell) (job .press) smallTable seated ∧
      (part (.composing (job .press))).headB.engine = .composing (job .press) ∧
      1 < (2 : Byte).toNat := by decide

theorem witness_HeadCleared :
    (State.reset.headA.engine = .idle ∧ State.reset.headA.claim = none) ∧
      (part .idle).headB.claim = some { site := 24, kind := .press } ∧ ((part .idle).site 24).prior = some .pending ∧
      (pressing .engage engaged).headB.engine = .stroke (phaseOf false .engage) (job .press) smallTable engaged ∧
      ((pressing .engage engaged).site 24).prior = some .pending ∧
      StrokeFate 24 .press engaged.contact.isSome true .pending .aborted (.released 24 .partialIn) :=
  ⟨by decide, by decide, by decide, by decide, by decide, .cutPress _ (by simp) rfl rfl⟩

/-- A write and a read in progress on Head Port A at RESTART. -/
theorem witness_RestartEnds :
    let s := after (.unknown .headA [0xC1, 4]) State.reset
    let r := after (.unknown .headA [0xC2, 0]) { State.reset with portA := busy }
    s.portA.reception = some (.bytes [0xC1, 4]) ∧ readsOn (.bytes [0xC1, 4]) = false ∧
      r.portA.reception = some (.bytes [0xC2, 0]) ∧ readsOn (.bytes [0xC2, 0]) = true := by decide +kernel

theorem witness_WatchSlotsPointed :
    portFree State.reset.cell ∧ (1 : Byte).toNat ≤ 1 ∧ (63 : Byte).toNat ≤ 63 ∧ (15 : Byte).toNat ≤ 15 ∧
      1 < (2 : Byte).toNat ∧ (63 < (64 : Byte).toNat ∧ (64 : Byte) ≠ 255) := by decide

/-- The pins A, C and E of 9.5 after an abort at a maximum d_rel of 330, at indices of the span of site 24, its ends among them;
and pin C at 400. -/
theorem witness_PinVerdictsByOutcome :
    let s := pressing .engage engaged
    inSpan (pinSpan (s.site 24)) 800 ∧ inSpan (pinSpan (s.site 24)) 804 ∧ ¬ inSpan (pinSpan (s.site 24)) 805 ∧
      [800, 803, 804].map
          (s.verdictEvent .b (job .press) smallTable { engaged with maxDepth := some 330 } .aborted false).verdict =
        [.partialIn, .notPressed, .empty] ∧
      (s.verdictEvent .b (job .press) smallTable { engaged with maxDepth := some 400 } .linkLost true).verdict 803 =
        .partialIn := by
  decide +kernel

theorem witness_PartLawKept : PartLaw State.reset ∧ step State.reset = .next (tick State.reset) := by
  have site : siteLaw Site.undefined := by decide
  have pin : pinLaw Pin.blank := by decide
  refine ⟨?_, rfl⟩
  constructor
  case sites => exact fun _ => site
  case pins => exact fun _ => pin
  all_goals decide

theorem witness_ArbiterLawKept : ArbiterLaw State.reset := by
  have head : ∀ h, HeadLaw State.reset h := by
    intro h
    constructor
    · intro c hc; cases h <;> cases hc
    · intro j hj; cases h <;> cases hj
    · intro hw; cases h <;> cases hw
  constructor
  case headA => exact head .a
  case headB => exact head .b
  case held => intro i hi; cases hi
  case free => exact fun _ _ => ⟨rfl, rfl⟩
  case oneWait => exact .inl rfl
  case apart => intro c d hc; cases hc
  case locks => intro i hi; cases hi
  case edit => exact fun _ => ⟨fun _ => rfl, rfl, rfl, rfl, rfl⟩

theorem witness_WorkLawKept : WorkLaw State.reset :=
  { engineA := trivial, engineB := trivial,
    records := fun _ => (by decide : recordLaw PressRecord.emptyForm) }

theorem witness_HeadsIsolated : Concerns .a (.interlockChange .a true) := .interlock true

theorem witness_FramesRoundTrip :
    requestPort (.claim .headA 3 0 1) = some .headA ∧ wellFormed (.claim .headA 3 0 1) = true ∧
      (quiet (-6000)).laneCount ≤ 16 ∧ (quiet (-6000)).raws.length = (quiet (-6000)).laneCount := by decide

end Sys2Proof.Tests
end

section
/-! PROOF. The Board Map's lock flags and disposition (R16 to R19). -/

namespace Sys2Proof.Machine

/-! ## A request answered in a single reply -/

/-- A request that a free port takes leaves the state `t` that its block makes, with the reply pending. The transaction is
begun before the block's work; the hypothesis is that it could as well be begun after it. -/
theorem receive_eq_withReply (i : Instr) (p : Port) (body : State → Answer) (s t : State) (status : Status)
    (payload : List Byte) (hf : portFree (s.port p)) (hl : frameLength i ≤ 256)
    (hc : codeListed p (requestCode i) = true) (ha : lengthAgrees p i = true)
    (hb : body (s.beginTransaction p) = (t.beginTransaction p, status, payload)) :
    receive i p body s = t.withReply p (requestCode i) status payload := by
  rw [receive_taken i p body s hf hl hc ha, hb, State.answer_beginTransaction]

theorem exec_lockSites_taken (s t : State) (first count : Byte) (status : Status) (payload : List Byte)
    (hf : portFree s.cell)
    (hb : lockSitesBody first count (s.beginTransaction .cell) = (t.beginTransaction .cell, status, payload)) :
    exec (.lockSites .cell first count) s = .next (t.withReply .cell 0x16 status payload) :=
  congrArg Host.Outcome.next
    (receive_eq_withReply (.lockSites .cell first count) .cell _ s t status payload hf
      (by simp [frameLength, fieldBytes]) rfl rfl hb)

theorem exec_unlockSites_taken (s t : State) (first count : Byte) (status : Status) (payload : List Byte)
    (hf : portFree s.cell)
    (hb : unlockSitesBody first count (s.beginTransaction .cell) = (t.beginTransaction .cell, status, payload)) :
    exec (.unlockSites .cell first count) s = .next (t.withReply .cell 0x17 status payload) :=
  congrArg Host.Outcome.next
    (receive_eq_withReply (.unlockSites .cell first count) .cell _ s t status payload hf
      (by simp [frameLength, fieldBytes]) rfl rfl hb)

theorem exec_disposeSite_taken (s t : State) (site : Byte) (status : Status) (payload : List Byte)
    (hf : portFree s.cell)
    (hb : disposeSiteBody site (s.beginTransaction .cell) = (t.beginTransaction .cell, status, payload)) :
    exec (.disposeSite .cell site) s = .next (t.withReply .cell 0x18 status payload) :=
  congrArg Host.Outcome.next
    (receive_eq_withReply (.disposeSite .cell site) .cell _ s t status payload hf
      (by simp [frameLength, fieldBytes]) rfl rfl hb)

/-! ## A run of lock flags -/

theorem siteCount_not_le {n : Nat} (h : n ≤ 63) : ¬ Config.siteCount ≤ n := Nat.not_le.2 (Nat.lt_succ_of_le h)

theorem siteHeld_iff (x : Site) : siteHeld x = true ↔ x.state = .claimed ∨ x.state = .pressing := by
  unfold siteHeld
  cases x.state <;> simp

/-- The state with the `n` lock flags from index `i` on written, and nothing else changed: what both runs come to. -/
def State.setLocks (s : State) (i n : Nat) (b : Bool) : State :=
  { s with map := { s.map with locks := Table.update false s.map.locks i n (fun _ _ => b) } }

theorem State.setLock_setLocks (s : State) (i n : Nat) (b : Bool) :
    (s.setLock i b).setLocks (i + 1) n b = s.setLocks i (n + 1) b := rfl

theorem State.setLocks_beginTransaction (s : State) (p : Port) (i n : Nat) (b : Bool) :
    (s.beginTransaction p).setLocks i n b = (s.setLocks i n b).beginTransaction p := by cases p <;> rfl

theorem State.setLocks_locked (s : State) (i n : Nat) (b : Bool) (j : Nat) :
    (s.setLocks i n b).locked j = if inSpan (i, n) j then b else s.locked j :=
  Table.get_update false n s.map.locks i (fun _ _ => b) j

theorem State.setLocks_true_locked_iff (s : State) (i n j : Nat) :
    (s.setLocks i n true).locked j = true ↔ s.locked j = true ∨ inSpan (i, n) j := by
  rw [State.setLocks_locked]
  by_cases hj : inSpan (i, n) j
  · rw [if_pos hj]
    exact iff_of_true rfl (.inr hj)
  · rw [if_neg hj]
    exact (or_iff_left hj).symm

theorem State.setLocks_false_locked_iff (s : State) (i n j : Nat) :
    (s.setLocks i n false).locked j = true ↔ s.locked j = true ∧ ¬ inSpan (i, n) j := by
  rw [State.setLocks_locked]
  by_cases hj : inSpan (i, n) j
  · rw [if_pos hj]
    exact iff_of_false Bool.false_ne_true (fun h => h.2 hj)
  · rw [if_neg hj]
    exact (and_iff_left hj).symm

/-- The run of LOCK_SITES sets the flags of the `m` sites before the first held one, and ends there (R16). -/
theorem State.lockRun_eq_setLocks (m : Nat) :
    ∀ (s : State) (i n : Nat), m ≤ n → (∀ j, j < m → siteHeld (s.site (i + j)) = false) →
      (m < n → siteHeld (s.site (i + m)) = true) → s.lockRun i n = (s.setLocks i m true, i + m, n - m) := by
  induction m with
  | zero =>
    intro s i n _ _ hstop
    cases n with
    | zero => rfl
    | succ n => exact if_pos (hstop (Nat.succ_pos n))
  | succ m ih =>
    intro s i n hmn hfree hstop
    obtain ⟨n, rfl⟩ : ∃ k, n = k + 1 := ⟨n - 1, by omega⟩
    have hi : siteHeld (s.site i) = false := hfree 0 (Nat.succ_pos m)
    have shift : ∀ j, i + 1 + j = i + (j + 1) := fun j => by omega
    have rest := ih (s.setLock i true) (i + 1) n (by omega)
      (fun j hj => by rw [State.setLock_site, shift]; exact hfree (j + 1) (by omega))
      (fun hm => by rw [State.setLock_site, shift]; exact hstop (by omega))
    rw [State.lockRun, hi, if_neg Bool.false_ne_true, rest, State.setLock_setLocks, shift, Nat.succ_sub_succ]

/-- The run of UNLOCK_SITES clears every flag of the run (R18). -/
theorem State.unlockRun_eq_setLocks (n : Nat) : ∀ (s : State) (i : Nat), s.unlockRun i n = s.setLocks i n false := by
  induction n with
  | zero => exact fun _ _ => rfl
  | succ n ih => exact fun s i => ih (s.setLock i false) (i + 1)

/-! ## LOCK_SITES and UNLOCK_SITES -/

theorem lockSitesBody_range (first count : Byte) (s : State) (h : 63 < first.toNat ∨ count.toNat = 0) :
    lockSitesBody first count s = (s, .range, []) := if_pos h

theorem unlockSitesBody_range (first count : Byte) (s : State) (h : 63 < first.toNat ∨ count.toNat = 0) :
    unlockSitesBody first count s = (s, .range, []) := if_pos h

/-- LOCK_SITES's answer, by the number `m` of sites that its run processes (R17). -/
theorem lockSitesBody_run (first count : Byte) (s : State) (m : Nat) (hfirst : first.toNat ≤ 63)
    (hcount : count.toNat ≠ 0) (hm : m ≤ runLength first count)
    (hfree : ∀ j, j < m → siteHeld (s.site (first.toNat + j)) = false)
    (hstop : m < runLength first count → siteHeld (s.site (first.toNat + m)) = true) :
    lockSitesBody first count s =
      (s.setLocks first.toNat m true,
        if m < runLength first count then .refusedState else runStatus first count,
        if m < runLength first count then u8 (first.toNat + m) ++ u8 (runLength first count - m) else [64, 0]) := by
  rw [lockSitesBody, if_neg (not_or.2 ⟨siteCount_not_le hfirst, hcount⟩),
    State.lockRun_eq_setLocks m s _ _ hm hfree hstop]
  by_cases hlt : m < runLength first count
  · obtain ⟨k, hk⟩ : ∃ k, runLength first count - m = k + 1 := ⟨runLength first count - m - 1, by omega⟩
    rw [if_pos hlt, if_pos hlt, hk]
  · rw [if_neg hlt, if_neg hlt, Nat.sub_eq_zero_of_le (Nat.not_lt.1 hlt)]
    rfl

/-- UNLOCK_SITES's answer (R18). -/
theorem unlockSitesBody_run (first count : Byte) (s : State) (hfirst : first.toNat ≤ 63) (hcount : count.toNat ≠ 0) :
    unlockSitesBody first count s =
      (s.setLocks first.toNat (runLength first count) false, runStatus first count, [64, 0]) := by
  rw [unlockSitesBody, if_neg (not_or.2 ⟨siteCount_not_le hfirst, hcount⟩), State.unlockRun_eq_setLocks]
  rfl

/-- Settles O22: each run is one write of a span of lock flags, which for LOCK_SITES ends at the first held site. -/
theorem lockFlagRuns : Obligations.LockFlagRuns := by
  intro s first count n hf hn
  obtain rfl : n = runLength first count := hn
  refine ⟨fun hr => ⟨?_, ?_⟩, fun hfirst hcount m hm hfree hstop => ?_, fun hfirst hcount => ?_⟩
  · exact exec_lockSites_taken s s _ _ _ _ hf (lockSitesBody_range _ _ _ hr)
  · exact exec_unlockSites_taken s s _ _ _ _ hf (unlockSitesBody_range _ _ _ hr)
  · have hbody := lockSitesBody_run first count (s.beginTransaction .cell) m hfirst hcount hm
      (fun j hj => by simpa [← Bool.not_eq_true, siteHeld_iff] using hfree j hj)
      (fun h => (siteHeld_iff _).2 (by simpa using hstop h))
    rw [State.setLocks_beginTransaction] at hbody
    exact ⟨_, exec_lockSites_taken s _ _ _ _ _ hf hbody, rfl, s.setLocks_true_locked_iff first.toNat m⟩
  · have hbody := unlockSitesBody_run first count (s.beginTransaction .cell) hfirst hcount
    rw [State.setLocks_beginTransaction] at hbody
    exact ⟨_, exec_unlockSites_taken s _ _ _ _ _ hf hbody, rfl, s.setLocks_false_locked_iff first.toNat _⟩

/-! ## DISPOSE_SITE -/

theorem State.setSiteState_beginTransaction (s : State) (p : Port) (i : Nat) (st : SiteState) :
    (s.beginTransaction p).setSiteState i st = (s.setSiteState i st).beginTransaction p := by cases p <;> rfl

theorem disposeSiteBody_range (site : Byte) (s : State) (h : 63 < site.toNat) :
    disposeSiteBody site s = (s, .range, []) := if_pos h

theorem disposeSiteBody_refused (site : Byte) (s : State) (hsite : site.toNat ≤ 63)
    (hrej : (s.site site.toNat).state ≠ .rejected) (hpart : (s.site site.toNat).state ≠ .partialIn) :
    disposeSiteBody site s = (s, .refusedState, []) := by
  rw [disposeSiteBody, if_neg (siteCount_not_le hsite), if_neg (not_or.2 ⟨hrej, hpart⟩)]

theorem disposeSiteBody_taken (site : Byte) (s : State) (hsite : site.toNat ≤ 63)
    (h : (s.site site.toNat).state = .rejected ∨ (s.site site.toNat).state = .partialIn) :
    disposeSiteBody site s = (s.setSiteState site.toNat .pending, .ok, []) := by
  rw [disposeSiteBody, if_neg (siteCount_not_le hsite), if_pos h]

/-- Settles O23, by the three cases of R19. -/
theorem disposeReturnsPending : Obligations.DisposeReturnsPending := by
  intro s site hf
  refine ⟨fun hr => ?_, fun hsite hrej hpart => ?_, fun hsite h => ?_⟩
  · exact exec_disposeSite_taken s s _ _ _ hf (disposeSiteBody_range _ _ hr)
  · exact exec_disposeSite_taken s s _ _ _ hf
      (disposeSiteBody_refused site (s.beginTransaction .cell) hsite (by simpa using hrej) (by simpa using hpart))
  · have hbody := disposeSiteBody_taken site (s.beginTransaction .cell) hsite (by simpa using h)
    rw [State.setSiteState_beginTransaction] at hbody
    refine ⟨_, exec_disposeSite_taken s _ _ _ _ hf hbody, rfl, ?_, fun i hi => ?_⟩
    · rw [State.withReply_site, State.setSiteState, State.setSite_site, if_pos rfl]
    · rw [State.withReply_site, State.setSiteState, State.setSite_site, if_neg hi]

end Sys2Proof.Machine
end

section
/-! PROOF. SET_TOOL (R24, R25). -/

namespace Sys2Proof.Machine

/-! ## Clamping and the head field -/

theorem clampTo_eq_max_min {lo hi : Nat} (h : lo ≤ hi) (v : Nat) : clampTo lo hi v = max lo (min hi v) := by
  unfold clampTo
  split_ifs <;> omega

theorem clampTo_eq_self_iff (lo hi v : Nat) : clampTo lo hi v = v ↔ lo ≤ v ∧ v ≤ hi := by
  unfold clampTo
  split_ifs <;> omega

@[simp] theorem headOf_headByte (h : Head) : headOf (headByte h) = some h := by cases h <;> rfl

theorem headOf_eq_none {b : Byte} (hb : 1 < b.toNat) : headOf b = none := by
  unfold headOf
  split
  · omega
  · omega
  · rfl

theorem headBusy_iff (u : HeadUnit) : headBusy u = true ↔ u.engine ≠ .idle ∨ u.claim ≠ none ∨ u.waiting ≠ none := by
  simp [headBusy, ← engineIdle_iff, Option.isSome_iff_ne_none, or_assoc]

theorem State.modHead_beginTransaction (s : State) (h : Head) (f : HeadUnit → HeadUnit) (p : Port) :
    (s.beginTransaction p).modHead h f = (s.modHead h f).beginTransaction p := by cases h <;> cases p <;> rfl

/-! ## The lane entries -/

theorem clampedLane_eq (e : LaneEntry) :
    clampedLane e =
      { gain := max 1 (min 65535 e.gain.toNat), ceiling := max 1 (min 16777215 e.ceiling.toNat) } := by
  rw [clampedLane, clampTo_eq_max_min (by decide), clampTo_eq_max_min (by decide)]

theorem laneClamped_eq_false_iff (e : LaneEntry) :
    laneClamped e = false ↔
      (1 ≤ e.gain.toNat ∧ e.gain.toNat ≤ 65535) ∧ (1 ≤ e.ceiling.toNat ∧ e.ceiling.toNat ≤ 16777215) := by
  rw [laneClamped, decide_eq_false_iff_not, not_or, not_not, not_not]
  exact and_congr (clampTo_eq_self_iff _ _ _) (clampTo_eq_self_iff _ _ _)

/-- The status of a tool that is taken tells whether every entry was stored as it came. -/
theorem toolStatus_eq (entries : List LaneEntry) :
    (if entries.any laneClamped then Status.okClamped else Status.ok) =
      if (∀ e ∈ entries, (1 ≤ e.gain.toNat ∧ e.gain.toNat ≤ 65535) ∧
        (1 ≤ e.ceiling.toNat ∧ e.ceiling.toNat ≤ 16777215)) then .ok else .okClamped := by
  have hany : entries.any laneClamped = false ↔ ∀ e ∈ entries, (1 ≤ e.gain.toNat ∧ e.gain.toNat ≤ 65535) ∧
      (1 ≤ e.ceiling.toNat ∧ e.ceiling.toNat ≤ 16777215) := by
    simp only [List.any_eq_false, Bool.not_eq_true, laneClamped_eq_false_iff]
  simp only [← hany]
  cases entries.any laneClamped <;> rfl

theorem length_flatMap_laneEntryBytes (entries : List LaneEntry) :
    (entries.flatMap LaneEntry.bytes).length = 8 * entries.length := by
  induction entries with
  | nil => rfl
  | cons e es ih =>
    rw [List.flatMap_cons, List.length_append, ih, List.length_cons, show e.bytes.length = 8 from rfl]
    omega

/-! ## SET_TOOL -/

theorem exec_setTool_taken (s t : State) (head laneCount toolCode : Byte) (entries : List LaneEntry) (status : Status)
    (payload : List Byte) (hf : portFree s.cell) (hcount : entries.length = laneCount.toNat)
    (hfits : entries.length ≤ 31)
    (hb : setToolBody head laneCount toolCode entries (s.beginTransaction .cell) =
      (t.beginTransaction .cell, status, payload)) :
    exec (.setTool .cell head laneCount toolCode entries) s = .next (t.withReply .cell 0x28 status payload) := by
  have hlength : frameLength (.setTool .cell head laneCount toolCode entries) = 7 + 8 * entries.length := by
    rw [frameLength, fieldBytes, List.length_append, length_flatMap_laneEntryBytes, ← Nat.add_assoc]
    rfl
  exact congrArg Host.Outcome.next
    (receive_eq_withReply (.setTool .cell head laneCount toolCode entries) .cell _ s t status payload hf
      (by omega) rfl (by simpa [lengthAgrees] using hcount) hb)

section
variable (laneCount toolCode : Byte) (entries : List LaneEntry) (s : State)

theorem setToolBody_noHead {b : Byte} (hb : 1 < b.toNat) :
    setToolBody b laneCount toolCode entries s = (s, .range, []) := by
  rw [setToolBody, headOf_eq_none hb]

theorem setToolBody_busy {h : Head} (hbusy : headBusy (s.head h) = true) :
    setToolBody (headByte h) laneCount toolCode entries s = (s, .refusedState, []) := by
  simp only [setToolBody, headOf_headByte, if_pos hbusy]

theorem setToolBody_range {h : Head} (hfree : ¬ headBusy (s.head h) = true)
    (hrange : 16 < laneCount.toNat ∨ 7 < toolCode.toNat) :
    setToolBody (headByte h) laneCount toolCode entries s = (s, .range, []) := by
  simp only [setToolBody, headOf_headByte, if_neg hfree]
  exact if_pos hrange

theorem setToolBody_taken {h : Head} (hfree : ¬ headBusy (s.head h) = true)
    (hrange : ¬ (16 < laneCount.toNat ∨ 7 < toolCode.toNat)) :
    setToolBody (headByte h) laneCount toolCode entries s =
      (s.modHead h (fun u =>
          { u with
              tool :=
                { laneCount := laneCount.toNat, toolCode := toolCode.toNat, lanes := entries.map clampedLane } }),
        if entries.any laneClamped then .okClamped else .ok,
        [headByte h, laneCount, toolCode] ++ (entries.map clampedLane).flatMap laneSetupBytes) := by
  simp only [setToolBody, headOf_headByte, if_neg hfree]
  exact if_neg hrange

end

/-- Settles O27, by the four ways in which R24 and R25 judge a request: no such head, a head at work, a count or tool code
out of range, and a tool that is taken. -/
theorem toolStored : Obligations.ToolStored := by
  intro s h laneCount toolCode entries lanes hf hcount hfits hlanes
  have hlanes' : lanes = entries.map clampedLane :=
    hlanes.trans (List.map_congr_left (fun e _ => (clampedLane_eq e).symm))
  refine ⟨fun b hb => ?_, fun hbusy => ?_, fun hidle hclaim hwait => ?_⟩
  · exact exec_setTool_taken s s _ _ _ _ _ _ hf hcount hfits (setToolBody_noHead _ _ _ _ hb)
  · exact exec_setTool_taken s s _ _ _ _ _ _ hf hcount hfits
      (setToolBody_busy _ _ _ _ ((headBusy_iff _).2 (by simpa using hbusy)))
  · have hfree : ¬ headBusy ((s.beginTransaction .cell).head h) = true := by
      simp [headBusy_iff, hidle, hclaim, hwait]
    split
    case isTrue hrange =>
      exact exec_setTool_taken s s _ _ _ _ _ _ hf hcount hfits (setToolBody_range _ _ _ _ hfree hrange)
    case isFalse hrange =>
      have hbody := setToolBody_taken laneCount toolCode entries (s.beginTransaction .cell) hfree hrange
      rw [State.modHead_beginTransaction, toolStatus_eq, ← hlanes'] at hbody
      exact exec_setTool_taken s _ _ _ _ _ _ _ hf hcount hfits hbody

end Sys2Proof.Machine
end

section
/-! PROOF. RELEASE and CANCEL_WAIT (R52, R55). -/

namespace Sys2Proof.Machine

/-! ## A request of a head, taken -/

theorem onHead_headPort (h : Head) (body : Head → State → Answer) (s : State) :
    onHead (headPort h) body s = body h s := by cases h <;> rfl

/-- A head's request on its own free port leaves the state `t` that the body makes for that head, with the reply pending. -/
theorem receive_onHead_eq_withReply (i : Instr) (h : Head) (body : Head → State → Answer) (s t : State) (status : Status)
    (payload : List Byte) (hf : portFree (s.port (headPort h))) (hl : frameLength i ≤ 256)
    (hc : codeListed (headPort h) (requestCode i) = true) (ha : lengthAgrees (headPort h) i = true)
    (hb : body h (s.beginTransaction (headPort h)) = (t.beginTransaction (headPort h), status, payload)) :
    receive i (headPort h) (onHead (headPort h) body) s = t.withReply (headPort h) (requestCode i) status payload :=
  receive_eq_withReply i (headPort h) _ s t status payload hf hl hc ha ((onHead_headPort h body _).trans hb)

theorem exec_release_taken (s t : State) (h : Head) (status : Status) (payload : List Byte)
    (hf : portFree (s.port (headPort h)))
    (hb : releaseBody h (s.beginTransaction (headPort h)) = (t.beginTransaction (headPort h), status, payload)) :
    exec (.release (headPort h)) s = .next (t.withReply (headPort h) 0x31 status payload) :=
  congrArg Host.Outcome.next
    (receive_onHead_eq_withReply (.release (headPort h)) h releaseBody s t status payload hf
      (by simp [frameLength, fieldBytes]) (by cases h <;> rfl) rfl hb)

theorem exec_cancelWait_taken (s t : State) (h : Head) (status : Status) (payload : List Byte)
    (hf : portFree (s.port (headPort h)))
    (hb : cancelWaitBody h (s.beginTransaction (headPort h)) = (t.beginTransaction (headPort h), status, payload)) :
    exec (.cancelWait (headPort h)) s = .next (t.withReply (headPort h) 0x32 status payload) :=
  congrArg Host.Outcome.next
    (receive_onHead_eq_withReply (.cancelWait (headPort h)) h cancelWaitBody s t status payload hf
      (by simp [frameLength, fieldBytes]) (by cases h <;> rfl) rfl hb)

/-! ## Giving up a claim reads and changes no frame in reception -/

theorem State.releaseSite_beginTransaction (s : State) (p : Port) (h : Head) (i : Nat) (st : SiteState) :
    (s.beginTransaction p).releaseSite h i st = (s.releaseSite h i st).beginTransaction p := by
  cases h <;> cases p <;> rfl

theorem State.toIdle_beginTransaction (s : State) (p : Port) (h : Head) :
    (s.beginTransaction p).toIdle h = (s.toIdle h).beginTransaction p := by
  simp only [State.toIdle, State.setEngine, State.setSilence, State.modHead_beginTransaction]

theorem State.swap_beginTransaction (s : State) (p : Port) :
    (s.beginTransaction p).swap = s.swap.beginTransaction p := by cases p <;> rfl

theorem State.bothIdle_beginTransaction (s : State) (p : Port) : (s.beginTransaction p).bothIdle = s.bothIdle := by
  simp only [State.bothIdle, State.beginTransaction_headA, State.beginTransaction_headB]

theorem State.trySwap_beginTransaction (s : State) (p : Port) :
    (s.beginTransaction p).trySwap = s.trySwap.beginTransaction p := by
  simp only [State.trySwap, State.beginTransaction_library, State.bothIdle_beginTransaction,
    State.swap_beginTransaction]
  exact (apply_ite (State.beginTransaction · p) _ _ _).symm

/-! ## RELEASE -/

theorem returnState_eq {x : Site} {st : SiteState}
    (hx : x.prior = some .pending ∧ st = .pending ∨ x.prior = some .seated ∧ st = .seated) : returnState x = st := by
  obtain ⟨hp, rfl⟩ | ⟨hp, rfl⟩ := hx <;> rw [returnState, hp] <;> rfl

theorem engineState_eq_composing {e : Engine} (he : engineState e = .composing) : ∃ job, e = .composing job := by
  cases e with
  | idle => cases he
  | composing job => exact ⟨job, rfl⟩
  | armed job env => cases he
  | stroke ph job env ctx => cases ph <;> cases he

theorem engineState_eq_armed {e : Engine} (he : engineState e = .armed) : ∃ job env, e = .armed job env := by
  cases e with
  | idle => cases he
  | composing job => cases he
  | armed job env => exact ⟨job, env, rfl⟩
  | stroke ph job env ctx => cases ph <;> cases he

theorem strokeRuns_eq_true {e : Engine} (he : strokeRuns e = true) : ∃ ph job env ctx, e = .stroke ph job env ctx := by
  cases e with
  | idle => cases he
  | composing job => cases he
  | armed job env => cases he
  | stroke ph job env ctx => exact ⟨ph, job, env, ctx, rfl⟩

section
variable {s : State} {h : Head}

theorem releaseBody_noClaim (hc : (s.head h).claim = none) : releaseBody h s = (s, .noClaim, []) := by
  simp only [releaseBody, hc]

variable {c : Claim} (hc : (s.head h).claim = some c)
include hc

theorem releaseBody_composing (he : engineState (s.head h).engine = .composing) :
    releaseBody h s = (s, .busy, []) := by
  obtain ⟨job, he⟩ := engineState_eq_composing he
  simp only [releaseBody, hc, he]

theorem releaseBody_stroke (he : strokeRuns (s.head h).engine = true) :
    releaseBody h s = (s, .refusedState, []) := by
  obtain ⟨ph, job, env, ctx, he⟩ := strokeRuns_eq_true he
  simp only [releaseBody, hc, he]

theorem releaseBody_idle (he : (s.head h).engine = .idle) :
    releaseBody h s = (s.releaseSite h c.site (returnState (s.site c.site)), .ok, u8 c.site) := by
  simp only [releaseBody, hc, he]

theorem releaseBody_armed (he : engineState (s.head h).engine = .armed) :
    releaseBody h s =
      (((s.toIdle h).releaseSite h c.site (returnState (s.site c.site))).trySwap, .ok, u8 c.site) := by
  obtain ⟨job, env, he⟩ := engineState_eq_armed he
  simp only [releaseBody, hc, he]

end

/-- The site is released and the engine enters IDLE in one event, so either may be written first. -/
theorem State.toIdle_releaseSite (s : State) (h : Head) (i : Nat) (st : SiteState) :
    (s.toIdle h).releaseSite h i st = (s.releaseSite h i st).toIdle h := by cases h <;> rfl

theorem State.releaseArmed_endsIdle (s : State) (h : Head) (i : Nat) (st : SiteState) :
    EndsIdle s h (.released i st) [] ((s.toIdle h).releaseSite h i st).trySwap ∧
      storeKept s ((s.toIdle h).releaseSite h i st).trySwap := by
  rw [State.toIdle_releaseSite]
  exact (s.releaseSite_settles h i st).idled.1.endsIdle

/-! ## CANCEL_WAIT -/

theorem cancelWaitBody_none {s : State} {h : Head} (hw : (s.head h).waiting = none) :
    cancelWaitBody h s = (s, .notWaiting, []) := by
  simp only [cancelWaitBody, hw]

theorem cancelWaitBody_some {s : State} {h : Head} {w : Wait} (hw : (s.head h).waiting = some w) :
    cancelWaitBody h s = (s.modHead h (fun u => { u with waiting := none }), .ok, u8 w.site) := by
  simp only [cancelWaitBody, hw]
  rfl

/-- Settles O35: RELEASE by the four groups of engine states that R52 sets apart, of which IDLE releases the site and ARMED
also ends idle, and CANCEL_WAIT by whether a waiting claim stands. -/
theorem claimGivenUp : Obligations.ClaimGivenUp := by
  intro s h hf
  have hhead : (s.beginTransaction (headPort h)).head h = s.head h := State.beginTransaction_head s _ h
  refine ⟨fun hc => ?_, fun c hc => ⟨fun he => ?_, fun he => ?_, fun st hst => ⟨fun he => ?_, fun he => ?_⟩⟩,
    fun hw => ?_, fun w hw => ?_⟩
  · exact exec_release_taken s s h _ _ hf (releaseBody_noClaim (by rw [hhead, hc]))
  · exact exec_release_taken s s h _ _ hf (releaseBody_composing (by rw [hhead, hc]) (by rw [hhead, he]))
  · exact exec_release_taken s s h _ _ hf (releaseBody_stroke (by rw [hhead, hc]) (by rw [hhead, he]))
  · have hbody := releaseBody_idle (hhead ▸ hc) (hhead ▸ he)
    rw [State.beginTransaction_site, returnState_eq hst, State.releaseSite_beginTransaction] at hbody
    obtain ⟨hframe, hown, hother, hsites⟩ := s.releaseSite_settles h c.site st
    exact ⟨_, exec_release_taken s _ h _ _ hf hbody, hframe, hown, hother, hsites⟩
  · have hbody := releaseBody_armed (hhead ▸ hc) (hhead ▸ he)
    rw [State.beginTransaction_site, returnState_eq hst, State.toIdle_beginTransaction,
      State.releaseSite_beginTransaction, State.trySwap_beginTransaction] at hbody
    exact ⟨_, exec_release_taken s _ h _ _ hf hbody, s.releaseArmed_endsIdle h c.site st⟩
  · exact exec_cancelWait_taken s s h _ _ hf (cancelWaitBody_none (by rw [hhead, hw]))
  · have hbody := cancelWaitBody_some (hhead ▸ hw)
    rw [State.modHead_beginTransaction] at hbody
    exact exec_cancelWait_taken s _ h _ _ hf hbody

end Sys2Proof.Machine
end

section
/-! PROOF. ARM (R78, R79). -/

namespace Sys2Proof.Machine

theorem exec_arm_taken (s t : State) (h : Head) (status : Status) (payload : List Byte)
    (hf : portFree (s.port (headPort h)))
    (hb : armBody h (s.beginTransaction (headPort h)) = (t.beginTransaction (headPort h), status, payload)) :
    exec (.arm (headPort h)) s = .next (t.withReply (headPort h) 0x33 status payload) :=
  congrArg Host.Outcome.next
    (receive_onHead_eq_withReply (.arm (headPort h)) h armBody s t status payload hf
      (by simp [frameLength, fieldBytes]) (by cases h <;> rfl) rfl hb)

/-! ## The five cases of R78, in order -/

section
variable {s : State} {h : Head}

theorem armBody_noClaim (hc : (s.head h).claim = none) : armBody h s = (s, .noClaim, []) := by
  simp only [armBody, hc]

variable {c : Claim} (hc : (s.head h).claim = some c)
include hc

theorem armBody_working (he : (s.head h).engine ≠ .idle) : armBody h s = (s, .refusedState, []) := by
  simp [armBody, hc, mt (engineIdle_iff _).mp he]

variable (he : (s.head h).engine = .idle)
include he

theorem armBody_stopped (hstop : (s.head h).lines.stop = true) : armBody h s = (s, .stopped, []) := by
  simp [armBody, hc, (engineIdle_iff _).mpr he, stopLevel, hstop]

variable (hstop : (s.head h).lines.stop = false)
include hstop

theorem armBody_swapBusy (hswap : s.library.swapPending = true) : armBody h s = (s, .swapBusy, []) := by
  simp [armBody, hc, (engineIdle_iff _).mpr he, stopLevel, hstop, hswap]

theorem armBody_accepted (hswap : s.library.swapPending = false) :
    armBody h s = (s.setEngine h (.composing (armJob s h c)), .accepted, []) := by
  simp [armBody, hc, (engineIdle_iff _).mpr he, stopLevel, hstop, hswap]

end

/-- The snapshot of an accepted ARM is that of the head whose engine takes it. -/
theorem State.setEngine_armJob (s : State) (h : Head) (c : Claim) :
    s.setEngine h (.composing (armJob s h c)) =
      s.modHead h (fun u =>
        { u with
            engine :=
              .composing
                { site := c.site, kind := c.kind, settings := u.settings.judged,
                  bankGeneration := s.library.generation } }) := by cases h <;> rfl

/-- Settles O36: a case of the statement for each case of R78, where ARM reads the head and the bank generation, which
the arrival of its frame leaves as they stood. -/
theorem armAccepted : Obligations.ArmAccepted := by
  intro s h hf
  have hhead : (s.beginTransaction (headPort h)).head h = s.head h := State.beginTransaction_head s _ h
  have hlib : (s.beginTransaction (headPort h)).library = s.library := State.beginTransaction_library s _
  refine ⟨fun hc => ?_, fun c hc => ⟨fun he => ?_, fun he hstop => ?_, fun he hstop hswap => ?_,
    fun he hstop hswap => ?_⟩⟩
  · exact exec_arm_taken s s h _ _ hf (armBody_noClaim (hhead ▸ hc))
  · exact exec_arm_taken s s h _ _ hf (armBody_working (hhead ▸ hc) (hhead ▸ he))
  · exact exec_arm_taken s s h _ _ hf (armBody_stopped (hhead ▸ hc) (hhead ▸ he) (hhead ▸ hstop))
  · exact exec_arm_taken s s h _ _ hf
      (armBody_swapBusy (hhead ▸ hc) (hhead ▸ he) (hhead ▸ hstop) (hlib ▸ hswap))
  · have hbody := armBody_accepted (hhead ▸ hc) (hhead ▸ he) (hhead ▸ hstop) (hlib ▸ hswap)
    rw [State.setEngine_armJob, hlib, State.modHead_beginTransaction] at hbody
    exact exec_arm_taken s _ h _ _ hf hbody

end Sys2Proof.Machine
end

section
/-! PROOF. The Envelope Table of a composition (R83 to R87). -/

namespace Sys2Proof.Machine

/-! ## Between two breakpoints (R83) -/

/-- The exact value at a depth on the line that joins a quantity's values at two breakpoints. -/
def lineValue (b c : Breakpoint) (f : Breakpoint → Nat) (x : Int) : ℚ :=
  (f b : ℚ) + ((f c : ℚ) - f b) * ((x : ℚ) - b.depth) / ((c.depth : ℚ) - b.depth)

theorem lineValue_const (b c : Breakpoint) (m : Nat) (x : Int) : lineValue b c (fun _ => m) x = m := by
  simp [lineValue]

section
variable {b c : Breakpoint} {x : Int}

/-- The line's value as the one quotient of integers that the part rounds. -/
theorem lineValue_eq_div (f : Breakpoint → Nat) (hbc : b.depth < c.depth) :
    lineValue b c f x =
      (((f b : Int) * ((c.depth : Int) - b.depth) + ((f c : Int) - f b) * (x - b.depth) : Int) : ℚ) /
        ((c.depth - b.depth : Nat) : ℚ) := by
  have hd : ((c.depth : ℚ) - b.depth) ≠ 0 := sub_ne_zero.mpr (by exact_mod_cast hbc.ne')
  rw [Nat.cast_sub hbc.le, lineValue]
  push_cast
  field_simp

variable (hb : (b.depth : Int) ≤ x) (hc : x < c.depth)
include hb hc

/-- On the segment the value is a weighted mean of the two ends, so it rises with both. -/
theorem lineValue_mono {f g : Breakpoint → Nat} (hfb : f b ≤ g b) (hfc : f c ≤ g c) :
    lineValue b c f x ≤ lineValue b c g x := by
  have hbc : b.depth < c.depth := by omega
  rw [lineValue_eq_div f hbc, lineValue_eq_div g hbc]
  refine div_le_div_of_nonneg_right (Int.cast_le.mpr ?_) (Nat.cast_nonneg _)
  have hleft : (f b : Int) * (c.depth - x) ≤ g b * (c.depth - x) :=
    mul_le_mul_of_nonneg_right (by omega) (by omega)
  have hright : (f c : Int) * (x - b.depth) ≤ g c * (x - b.depth) :=
    mul_le_mul_of_nonneg_right (by omega) (by omega)
  linarith

theorem lineValue_nonneg (f : Breakpoint → Nat) : 0 ≤ lineValue b c f x := by
  have h := lineValue_mono hb hc (f := fun _ => 0) (Nat.zero_le (f b)) (Nat.zero_le (f c))
  rwa [lineValue_const, Nat.cast_zero] at h

theorem interpolate_lower : ((interpolate b c x).lower : Int) = ⌊lineValue b c Breakpoint.lower x⌋ := by
  have hbc : b.depth < c.depth := by omega
  have hpos := Int.floor_nonneg.mpr (lineValue_nonneg hb hc Breakpoint.lower)
  rw [lineValue_eq_div _ hbc, Rat.floor_intCast_div_natCast, Nat.cast_sub hbc.le] at hpos ⊢
  exact Int.toNat_of_nonneg hpos

theorem interpolate_upper : ((interpolate b c x).upper : Int) = ⌈lineValue b c Breakpoint.upper x⌉ := by
  have hbc : b.depth < c.depth := by omega
  have hpos := Int.ceil_nonneg (lineValue_nonneg hb hc Breakpoint.upper)
  rw [lineValue_eq_div _ hbc, Rat.ceil_intCast_div_natCast, Nat.cast_sub hbc.le] at hpos ⊢
  exact Int.toNat_of_nonneg hpos

end

/-! ## The window of a pin (R83) -/

/-- Bounds in order, the upper one within the greatest force a profile may state (R61). -/
def Bounds.inRange (b : Bounds) : Prop := b.lower ≤ b.upper ∧ b.upper ≤ 20000

theorem interpolate_inRange {b c : Breakpoint} {x : Int} (hb : (b.depth : Int) ≤ x) (hc : x < c.depth)
    (hbs : b.lower ≤ b.upper ∧ b.upper ≤ 20000) (hcs : c.lower ≤ c.upper ∧ c.upper ≤ 20000) :
    (interpolate b c x).inRange := by
  have hle : lineValue b c Breakpoint.lower x ≤ lineValue b c Breakpoint.upper x :=
    lineValue_mono hb hc hbs.1 hcs.1
  have htop : lineValue b c Breakpoint.upper x ≤ (20000 : Nat) :=
    (lineValue_mono hb hc (g := fun _ => 20000) hbs.2 hcs.2).trans_eq (lineValue_const b c 20000 x)
  have hround := (Int.floor_mono hle).trans (Int.floor_le_ceil _)
  have hceil : ⌈lineValue b c Breakpoint.upper x⌉ ≤ (20000 : Nat) := Int.ceil_le.mpr (by exact_mod_cast htop)
  rw [← interpolate_lower hb hc, ← interpolate_upper hb hc] at hround
  rw [← interpolate_upper hb hc] at hceil
  exact ⟨by exact_mod_cast hround, by exact_mod_cast hceil⟩

theorem windowFrom_inRange (x : Int) : ∀ (b : Breakpoint) (bs : List Breakpoint), (b.depth : Int) ≤ x →
    (∀ c ∈ b :: bs, c.lower ≤ c.upper ∧ c.upper ≤ 20000) → (windowFrom b x bs).inRange
  | b, [], _, hall => hall b (List.mem_singleton_self b)
  | b, c :: cs, hb, hall => by
    have htail := List.forall_mem_cons.mp hall
    rw [windowFrom]
    split
    · next hx => exact interpolate_inRange hb hx htail.1 (htail.2 c List.mem_cons_self)
    · next hx => exact windowFrom_inRange x c cs (not_lt.mp hx) htail.2

theorem pinWindow_inRange (points : List Breakpoint) (x : Int)
    (hall : ∀ c ∈ points, c.lower ≤ c.upper ∧ c.upper ≤ 20000) : (pinWindow points x).inRange := by
  cases points with
  | nil => exact ⟨le_rfl, Nat.zero_le _⟩
  | cons b bs =>
    rw [pinWindow]
    split
    · exact ⟨Nat.zero_le _, (hall b List.mem_cons_self).2⟩
    · next hx => exact windowFrom_inRange x b bs (not_lt.mp hx) hall

/-- The depths of a profile's breakpoints strictly rise (R61). -/
def rising (points : List Breakpoint) : Prop := List.Pairwise (fun b c => b.depth < c.depth) points

theorem rising_head_le {b c : Breakpoint} {bs : List Breakpoint} (hr : rising (b :: bs)) (hc : c ∈ b :: bs) :
    b.depth ≤ c.depth := by
  obtain rfl | hc := List.mem_cons.mp hc
  · exact le_rfl
  · exact (List.rel_of_pairwise_cons hr hc).le

/-- From a breakpoint that lies at or before the depth on, the walk passes over the first breakpoint. -/
theorem windowFrom_cons {b c u : Breakpoint} {cs : List Breakpoint} {x : Int} (hr : rising (c :: cs))
    (hu : u ∈ c :: cs) (hx : (u.depth : Int) ≤ x) : windowFrom b x (c :: cs) = windowFrom c x cs := by
  have hc := rising_head_le hr hu
  rw [windowFrom, if_neg (by omega)]

theorem windowFrom_segment (x : Int) {u v : Breakpoint} (hu : (u.depth : Int) ≤ x) (hv : x < v.depth) :
    ∀ (b : Breakpoint) (bs : List Breakpoint) (k : Nat), rising (b :: bs) → (b :: bs)[k]? = some u →
      (b :: bs)[k + 1]? = some v → windowFrom b x bs = interpolate u v x
  | b, [], _, _, _, h1 => by simp at h1
  | b, c :: cs, 0, _, h0, h1 => by
    obtain rfl : b = u := by simpa using h0
    obtain rfl : c = v := by simpa using h1
    rw [windowFrom, if_pos hv]
  | b, c :: cs, k + 1, hr, h0, h1 => by
    rw [windowFrom_cons hr.tail (List.mem_of_getElem? h0) hu]
    exact windowFrom_segment x hu hv c cs k hr.tail h0 h1

theorem windowFrom_last (x : Int) {u : Breakpoint} (hu : (u.depth : Int) ≤ x) :
    ∀ (b : Breakpoint) (bs : List Breakpoint), rising (b :: bs) → (b :: bs).getLast? = some u →
      windowFrom b x bs = { lower := u.lower, upper := u.upper }
  | b, [], _, h => by
    obtain rfl : b = u := by simpa using h
    rfl
  | b, c :: cs, hr, h => by
    rw [List.getLast?_cons_cons] at h
    rw [windowFrom_cons hr.tail (List.mem_of_getLast? h) hu]
    exact windowFrom_last x hu c cs hr.tail h

theorem pinWindow_before {points : List Breakpoint} {b : Breakpoint} {x : Int} (hb : points.head? = some b)
    (hx : x < b.depth) : pinWindow points x = { lower := 0, upper := b.upper } := by
  obtain ⟨bs, rfl⟩ := List.head?_eq_some_iff.mp hb
  rw [pinWindow, if_pos hx]

/-- At or past some breakpoint the depth is not before the first. -/
theorem pinWindow_cons {b u : Breakpoint} {bs : List Breakpoint} {x : Int} (hr : rising (b :: bs))
    (hu : u ∈ b :: bs) (hx : (u.depth : Int) ≤ x) : pinWindow (b :: bs) x = windowFrom b x bs := by
  have hb := rising_head_le hr hu
  rw [pinWindow, if_neg (by omega)]

theorem pinWindow_past {points : List Breakpoint} {u : Breakpoint} {x : Int} (hr : rising points)
    (hu : points.getLast? = some u) (hx : (u.depth : Int) ≤ x) :
    pinWindow points x = { lower := u.lower, upper := u.upper } := by
  cases points with
  | nil => cases hu
  | cons b bs =>
    rw [pinWindow_cons hr (List.mem_of_getLast? hu) hx]
    exact windowFrom_last x hx b bs hr hu

theorem pinWindow_segment {points : List Breakpoint} {u v : Breakpoint} {x : Int} {k : Nat} (hr : rising points)
    (hk : points[k]? = some u) (hk' : points[k + 1]? = some v) (hu : (u.depth : Int) ≤ x) (hv : x < v.depth) :
    pinWindow points x = interpolate u v x := by
  cases points with
  | nil => cases hk
  | cons b bs =>
    rw [pinWindow_cons hr (List.mem_of_getElem? hk) hu]
    exact windowFrom_segment x hu hv b bs k hr hk hk'

/-! ## The window of a pin at a station -/

theorem State.pinAt_eq {s : State} {p : Pin} {q : Profile} (depth : Nat) (hq : s.activeProfile p = some q) :
    s.pinAt depth p = pinWindow q.points ((depth : Int) - p.entryOffset) := by
  simp only [State.pinAt, hq]

theorem profileLaw_of_profileAt {s : State} (hs : PartLaw s) {b : Bank} {place : Nat} {q : Profile}
    (hq : profileAt s.library b place = some q) : profileLaw q := by
  have hbank : bankLaw (bankOf s.library b) := by
    cases b with
    | zero => exact hs.bank0
    | one => exact hs.bank1
  have hmem := Table.get_eq_or_mem none (bankOf s.library b) place
  rw [show Table.get none (bankOf s.library b) place = some q from hq] at hmem
  exact hbank _ (hmem.resolve_left (Option.some_ne_none q)) q rfl

theorem State.pinAt_inRange {s : State} (hs : PartLaw s) (depth : Nat) (p : Pin) : (s.pinAt depth p).inRange := by
  cases hq : s.activeProfile p with
  | none => simp [State.pinAt, hq, Bounds.inRange]
  | some q =>
    obtain ⟨-, -, hpoints, -⟩ := profileLaw_of_profileAt hs hq
    rw [State.pinAt_eq depth hq]
    exact pinWindow_inRange _ _ (fun c hc => (hpoints c hc).2)

/-! ## The pins of a job and their sums (R85, R87) -/

theorem State.livePins_map_snd (s : State) : ∀ n first, (s.livePins first n).map Prod.snd =
    ((List.range n).map (fun k => s.pin (first + k))).filter Pin.live := by
  intro n
  induction n with
  | zero => exact fun _ => rfl
  | succ n ih =>
    intro first
    have hshift : (fun k => s.pin (first + 1 + k)) = (fun k => s.pin (first + k)) ∘ Nat.succ :=
      funext fun k => congrArg s.pin (by omega)
    rw [State.livePins, List.range_succ_eq_map, List.map_cons, List.map_map, List.filter_cons,
      ← hshift, ← ih (first + 1)]
    exact apply_ite (List.map Prod.snd) _ _ _

theorem State.laneSum_eq (s : State) (depth : Nat) (ps : List Pin) :
    s.laneSum depth ps =
      { lower := (ps.map (fun p => (s.pinAt depth p).lower)).sum,
        upper := (ps.map (fun p => (s.pinAt depth p).upper)).sum } := by
  induction ps with
  | nil => rfl
  | cons p ps ih => simp only [State.laneSum, ih, List.map_cons, List.sum_cons]

theorem State.seatTotal_eq (s : State) (ps : List Pin) :
    s.seatTotal ps = (ps.map (fun p => ((s.activeProfile p).map Profile.seatForce).getD 0)).sum := by
  induction ps with
  | nil => rfl
  | cons p ps ih => simp only [State.seatTotal, ih, List.map_cons, List.sum_cons]

theorem State.laneSum_lower_le_upper {s : State} (hs : PartLaw s) (depth : Nat) (ps : List Pin) :
    (s.laneSum depth ps).lower ≤ (s.laneSum depth ps).upper := by
  rw [State.laneSum_eq]
  exact List.sum_le_sum (fun p _ => (s.pinAt_inRange hs depth p).1)

theorem State.laneSum_upper_le {s : State} (hs : PartLaw s) (depth : Nat) (ps : List Pin) :
    (s.laneSum depth ps).upper ≤ 20000 * ps.length := by
  have h := List.sum_le_card_nsmul (ps.map (fun p => (s.pinAt depth p).upper)) 20000
    (List.forall_mem_map.mpr fun p _ => (s.pinAt_inRange hs depth p).2)
  rw [List.length_map, smul_eq_mul, mul_comm] at h
  rwa [State.laneSum_eq]

/-! ## Widening and rounding (R86, R87) -/

theorem natCeil_div_eq (n : Nat) {d : Nat} (hd : 0 < d) : ⌈(n : ℚ) / d⌉₊ = (n + d - 1) / d := by
  refine eq_of_forall_ge_iff fun m => ?_
  rw [Nat.ceil_le, div_le_iff₀ (by exact_mod_cast hd), ← Nat.ceilDiv_eq_add_pred_div, ceilDiv_le_iff_le_mul hd,
    mul_comm d]
  exact_mod_cast Iff.rfl

theorem verifyThreshold_eq (total percent : Nat) :
    verifyThreshold total percent = ⌈((total * percent : Nat) : ℚ) / 100⌉₊ :=
  (natCeil_div_eq (total * percent) (d := 100) (by decide)).symm

theorem widen_upper (guard : Nat) (b : Bounds) :
    (widen guard b).upper = ⌈((b.upper * (1000 + guard) : Nat) : ℚ) / 1000⌉₊ :=
  (natCeil_div_eq (b.upper * (1000 + guard)) (d := 1000) (by decide)).symm

theorem widen_lower_le_upper (guard : Nat) {b : Bounds} (hb : b.lower ≤ b.upper) :
    (widen guard b).lower ≤ (widen guard b).upper := by
  have hmul : b.lower * (1000 - guard) ≤ b.upper * (1000 + guard) := Nat.mul_le_mul hb (by omega)
  exact Nat.div_le_div_right (hmul.trans (Nat.le_add_right _ 999))

/-- A guard of at most a quarter (R27) carries 20000 for each pin to at most 25000. -/
theorem widen_upper_le {guard n : Nat} (hg : guard ≤ 250) {b : Bounds} (hb : b.upper ≤ 20000 * n) :
    (widen guard b).upper ≤ 25000 * n := by
  have hmul : b.upper * (1000 + guard) ≤ 20000 * n * 1250 := Nat.mul_le_mul hb (by omega)
  simp only [widen]
  omega

/-! ## The table (R76, R84 to R87) -/

theorem State.compose_seatTotal (s : State) (h : Head) (job : Job) :
    (s.compose h job).seatTotal = s.seatTotal ((s.jobPins job).map Prod.snd) := by
  unfold State.compose
  split <;> rfl

theorem State.compose_verifyThreshold (s : State) (h : Head) {job : Job} (hk : job.kind = .verify) :
    (s.compose h job).verifyThreshold =
      some (verifyThreshold (s.compose h job).seatTotal job.settings.verifyPercent) := by
  simp only [State.compose, hk]

/-- Bounds stand only in a used lane of a PRESS table, where a station's bounds are the widened sums of the lane's
pins. -/
theorem State.compose_bounds {s : State} {h : Head} {job : Job} {lane k : Nat} {e : EnvelopeLane} {bs : List Bounds}
    {b : Bounds} (he : (s.compose h job).lanes[lane]? = some e) (hbs : e.bounds = some bs) (hb : bs[k]? = some b) :
    b = widen job.settings.guard
      (s.laneSum (k * job.settings.stationPitch) (lanePins lane ((s.jobPins job).map Prod.snd))) := by
  cases hk : job.kind with
  | verify =>
    simp only [State.compose, hk, List.getElem?_map, Option.map_eq_some_iff] at he
    obtain ⟨l, -, rfl⟩ := he
    cases hbs
  | press =>
    simp only [State.compose, hk, List.getElem?_map, Option.map_eq_some_iff, List.getElem?_eq_some_iff,
      List.getElem_range] at he
    obtain ⟨_, ⟨_, rfl⟩, rfl⟩ := he
    unfold State.pressLane at hbs
    split at hbs
    · cases hbs
    · cases hbs
      simp only [List.getElem?_map, Option.map_eq_some_iff, List.getElem?_eq_some_iff, List.getElem_range] at hb
      obtain ⟨_, ⟨_, rfl⟩, rfl⟩ := hb
      rfl

/-- Settles O38: the window of a pin by where its depth lies among the breakpoints, and the table's totals and bounds as
sums over the live pins; order and range are carried from the breakpoints to the windows, the sums and the widened
sums. -/
theorem envelopeWithinLaw : Obligations.EnvelopeWithinLaw := by
  refine ⟨fun p x hp => ?_, fun s depth p q hq => State.pinAt_eq depth hq, ?_⟩
  · obtain ⟨-, -, hpoints, hr⟩ := hp
    obtain ⟨hle, htop⟩ := pinWindow_inRange p.points x (fun c hc => (hpoints c hc).2)
    refine ⟨hle, htop, fun b hb hx => pinWindow_before hb hx, fun b hb hx => pinWindow_past hr hb hx,
      fun k b c hk hk' hb hc => ?_⟩
    rw [pinWindow_segment hr hk hk' hb hc]
    exact ⟨interpolate_lower hb hc, interpolate_upper hb hc⟩
  · rintro s h job _ pins _ rfl rfl hpins
    obtain rfl : pins = (s.jobPins job).map Prod.snd := hpins.trans (s.livePins_map_snd _ _).symm
    refine ⟨(s.compose_seatTotal h job).trans (s.seatTotal_eq _), fun hk => ?_, ?_⟩
    · rw [s.compose_verifyThreshold h hk, verifyThreshold_eq]
    · rintro lane k e bs b _ _ he hbs hb rfl rfl
      have hsum := s.laneSum_eq (k * job.settings.stationPitch) (lanePins lane ((s.jobPins job).map Prod.snd))
      obtain rfl := State.compose_bounds he hbs hb
      refine ⟨?_, ?_, fun hs hlaw => ⟨?_, ?_⟩⟩
      · rw [hsum]; rfl
      · rw [widen_upper, hsum]; rfl
      · exact widen_lower_le_upper _ (State.laneSum_lower_le_upper hs _ _)
      · obtain ⟨-, hguard, -⟩ := hlaw
        exact widen_upper_le hguard ((State.laneSum_upper_le hs _ _).trans
          (Nat.mul_le_mul_left _ (List.length_filter_le _ _)))

end Sys2Proof.Machine
end

section
/-! PROOF. START (R112). -/

namespace Sys2Proof.Machine

theorem exec_start_taken (s t : State) (h : Head) (status : Status) (payload : List Byte)
    (hf : portFree (s.port (headPort h)))
    (hb : startBody h (s.beginTransaction (headPort h)) = (t.beginTransaction (headPort h), status, payload)) :
    exec (.start (headPort h)) s = .next (t.withReply (headPort h) 0x34 status payload) :=
  congrArg Host.Outcome.next
    (receive_onHead_eq_withReply (.start (headPort h)) h startBody s t status payload hf
      (by simp [frameLength, fieldBytes]) (by cases h <;> rfl) rfl hb)

/-! ## The order of R112 -/

section
variable {s : State} {h : Head}

theorem startBody_notArmed (he : engineState (s.head h).engine ≠ .armed) :
    startBody h s = (s, .refusedState, []) := by
  cases hk : (s.head h).engine with
  | idle => simp only [startBody, hk]
  | composing job => simp only [startBody, hk]
  | armed job env => exact absurd (congrArg engineState hk) he
  | stroke ph job env ctx => simp only [startBody, hk]

variable {job : Job} {env : Envelope} (he : (s.head h).engine = .armed job env)
include he

theorem startBody_stopped (hstop : (s.head h).lines.stop = true) : startBody h s = (s, .stopped, []) := by
  simp [startBody, he, stopLevel, hstop]

variable (hstop : (s.head h).lines.stop = false)
include hstop

theorem startBody_interlock (hint : interlockActive (s.head h) = true) :
    startBody h s = (s, .interlock, []) := by
  simp [startBody, he, stopLevel, hstop, hint]

variable (hint : interlockActive (s.head h) = false)
include hint

theorem startBody_lineForced (hover : (s.head h).lines.override = .forceOff) :
    startBody h s = (s, .lineForced, []) := by
  simp [startBody, he, stopLevel, hstop, hint, hover]

theorem startBody_taken (hover : (s.head h).lines.override ≠ .forceOff) :
    startBody h s = (s.startTaken h job env, .ok, []) := by
  simp [startBody, he, stopLevel, hstop, hint, hover]

end

/-! ## The stroke that START begins -/

section
variable (s : State) (h : Head) (job : Job) (env : Envelope)

/-- Where a taken START writes: the sites of the map, and the engine and the silence timer of its head. -/
theorem State.startTaken_frame :
    s.startTaken h job env =
      { s with map := { s.map with sites := (s.startTaken h job env).map.sites } }.modHead h (fun u =>
        { u with
            engine := .stroke .approach job env (startStroke u.tool.laneCount job.settings)
            link := { u.link with silence := some (job.settings.linkTimeout * 1000) } }) := by
  cases h <;> rfl

theorem State.startTaken_head :
    (s.startTaken h job env).head h =
      { s.head h with
          engine := .stroke .approach job env (startStroke (s.head h).tool.laneCount job.settings)
          link := { (s.head h).link with silence := some (job.settings.linkTimeout * 1000) } } := by
  cases h <;> rfl

theorem State.startTaken_site (i : Nat) :
    (s.startTaken h job env).site i = if i = job.site then { s.site job.site with state := .pressing } else s.site i := by
  rw [State.startTaken, State.setSilence_site, State.setSiteState, State.setSite_site, State.setEngine_site,
    State.setEngine_site]

theorem State.startTaken_beginTransaction (p : Port) :
    (s.beginTransaction p).startTaken h job env = (s.startTaken h job env).beginTransaction p := by
  simp only [State.startTaken, State.setEngine, State.setSilence, State.beginTransaction_head,
    State.modHead_beginTransaction, State.setSiteState_beginTransaction]

/-- With the line left to the engine, APPROACH raises PERMIT, for STOP does not stand (R141). -/
theorem State.startTaken_permitLevel (hstop : (s.head h).lines.stop = false)
    (hover : (s.head h).lines.override = .engine) : permitLevel ((s.startTaken h job env).head h) = true := by
  rw [State.startTaken_head]
  simp [permitLevel, hover, hstop, advancing]

end

/-- Settles O39: a case of the statement for each case of R112, where START reads its head, which the arrival of its frame
leaves as it stood; what the taken START leaves is read off the state that it makes. -/
theorem startBegins : Obligations.StartBegins := by
  intro s h hf
  have hhead : (s.beginTransaction (headPort h)).head h = s.head h := State.beginTransaction_head s _ h
  refine ⟨fun he => ?_, fun job env he => ⟨fun hstop => ?_, fun hstop hint => ?_, fun hstop hint hover => ?_,
    fun hstop hint hover => ?_⟩⟩
  · exact exec_start_taken s s h _ _ hf (startBody_notArmed (hhead ▸ he))
  · exact exec_start_taken s s h _ _ hf (startBody_stopped (hhead ▸ he) (hhead ▸ hstop))
  · exact exec_start_taken s s h _ _ hf (startBody_interlock (hhead ▸ he) (hhead ▸ hstop) (hhead ▸ hint))
  · exact exec_start_taken s s h _ _ hf
      (startBody_lineForced (hhead ▸ he) (hhead ▸ hstop) (hhead ▸ hint) (hhead ▸ hover))
  · have hbody := startBody_taken (hhead ▸ he) (hhead ▸ hstop) (hhead ▸ hint) (hhead ▸ hover)
    rw [State.startTaken_beginTransaction] at hbody
    refine ⟨_, exec_start_taken s _ h _ _ hf hbody, ?_, ?_, fun i hi => ?_, fun hengine => ?_⟩
    · rw [State.withReply_map]
      exact congrArg (State.withReply · (headPort h) 0x34 .ok []) (s.startTaken_frame h job env)
    · rw [State.withReply_site, State.startTaken_site, if_pos rfl]
    · rw [State.withReply_site, State.startTaken_site, if_neg hi]
    · rw [State.withReply_head]
      exact s.startTaken_permitLevel h job env hstop hengine

end Sys2Proof.Machine
end

section
/-! PROOF. SET_HEAD of the two interlock settings (R28, R32, R152). -/

namespace Sys2Proof.Machine

/-! ## What an interlock event does reads and changes no frame in reception -/

section
variable (s : State) (p : Port) (h : Head) (job : Job) (env : Envelope) (ctx : Stroke)

theorem State.postHead_beginTransaction (n : Notice) :
    (s.beginTransaction p).postHead h n = (s.postHead h n).beginTransaction p := by cases h <;> cases p <;> rfl

theorem State.verdictEvent_beginTransaction (o : StrokeOutcome) (isFault : Bool) :
    (s.beginTransaction p).verdictEvent h job env ctx o isFault =
      (s.verdictEvent h job env ctx o isFault).beginTransaction p := by
  unfold State.verdictEvent State.writeStroke
  rw [State.finishSlots_eq, State.finishSlots_eq]
  cases h <;> cases p <;> rfl

theorem State.interlockAbort_beginTransaction :
    (s.beginTransaction p).interlockAbort h job env ctx = (s.interlockAbort h job env ctx).beginTransaction p := by
  simp only [State.interlockAbort, State.abortStroke, State.conclude, State.setEngine,
    State.postHead_beginTransaction, State.verdictEvent_beginTransaction, State.modHead_beginTransaction]

theorem State.hold_beginTransaction (ret : Live) :
    (s.beginTransaction p).hold h ret job env ctx = (s.hold h ret job env ctx).beginTransaction p := by
  simp only [State.hold, State.setEngine, State.modHead_beginTransaction, State.postHead_beginTransaction]

theorem State.returnFromHeld_beginTransaction (ret : Live) :
    (s.beginTransaction p).returnFromHeld h ret job env ctx =
      (s.returnFromHeld h ret job env ctx).beginTransaction p := by
  simp only [State.returnFromHeld, State.setEngine, State.modHead_beginTransaction, State.postHead_beginTransaction]

theorem State.interlockOn_beginTransaction :
    (s.beginTransaction p).interlockOn h = (s.interlockOn h).beginTransaction p := by
  simp only [State.interlockOn, State.beginTransaction_head, State.interlockAbort_beginTransaction,
    State.hold_beginTransaction]
  cases (s.head h).engine with
  | idle => rfl
  | composing job => rfl
  | armed job env => rfl
  | stroke ph job env ctx => cases ph <;> cases (s.head h).settings.interlockAction <;> rfl

theorem State.interlockOff_beginTransaction :
    (s.beginTransaction p).interlockOff h = (s.interlockOff h).beginTransaction p := by
  simp only [State.interlockOff, State.beginTransaction_head, State.returnFromHeld_beginTransaction]
  split <;> rfl

theorem State.interlockMoved_beginTransaction (before : Bool) :
    (s.beginTransaction p).interlockMoved h before = (s.interlockMoved h before).beginTransaction p := by
  simp only [State.interlockMoved, State.beginTransaction_head, State.interlockOn_beginTransaction,
    State.interlockOff_beginTransaction]
  split_ifs <;> rfl

theorem State.actionChanged_beginTransaction :
    (s.beginTransaction p).actionChanged h = (s.actionChanged h).beginTransaction p := by
  simp only [State.actionChanged, State.beginTransaction_head, State.interlockAbort_beginTransaction,
    State.returnFromHeld_beginTransaction]
  cases (s.head h).engine with
  | idle => rfl
  | composing job => rfl
  | armed job env => rfl
  | stroke ph job env ctx =>
    cases ph with
    | held ret => cases (s.head h).settings.interlockAction <;> cases interlockActive (s.head h) <;> rfl
    | _ => rfl

theorem State.storeHead_beginTransaction (g : Setting) (v : Nat) :
    (s.beginTransaction p).storeHead h g v = (s.storeHead h g v).beginTransaction p := by
  simp only [State.storeHead, State.beginTransaction_head, State.modHead_beginTransaction,
    State.interlockMoved_beginTransaction, State.actionChanged_beginTransaction]
  cases g with
  | interlockAction => exact (apply_ite (State.beginTransaction · p) _ _ _).symm
  | _ => rfl

end

/-! ## SET_HEAD of an enumerated setting (R28) -/

theorem exec_setHead_taken (s t : State) (head setting : Byte) (v : Word) (status : Status) (payload : List Byte)
    (hf : portFree s.cell)
    (hb : setHeadBody head setting v (s.beginTransaction .cell) = (t.beginTransaction .cell, status, payload)) :
    exec (.setHead .cell head setting v) s = .next (t.withReply .cell 0x29 status payload) :=
  congrArg Host.Outcome.next
    (receive_eq_withReply (.setHead .cell head setting v) .cell _ s t status payload hf
      (by simp [frameLength, fieldBytes, le32]) rfl rfl hb)

section
variable {s : State} {setting : Byte} {g : Setting} {v : Word} (hf : portFree s.cell) (h : Head)
  (hg : settingOf setting = some g) (hr : settingRange g = none)
include hf hg hr

theorem exec_setHead_notListed (hv : settingValues g ≤ v.toNat) :
    exec (.setHead .cell (headByte h) setting v) s = .next (s.withReply .cell 0x29 .range []) := by
  have hjudge : judgeSetting g v.toNat = none := by rw [judgeSetting, hr]; exact if_neg (Nat.not_lt.2 hv)
  exact exec_setHead_taken s s _ _ _ _ _ hf (by simp only [setHeadBody, headOf_headByte, hg, hjudge])

theorem exec_setHead_listed (hv : v.toNat < settingValues g) :
    exec (.setHead .cell (headByte h) setting v) s =
      .next ((s.storeHead h g v.toNat).withReply .cell 0x29 .ok ([headByte h, setting] ++ le32 v)) := by
  have hjudge : judgeSetting g v.toNat = some (v.toNat, .ok) := by rw [judgeSetting, hr]; exact if_pos hv
  refine exec_setHead_taken s _ _ _ _ _ _ hf ?_
  simp only [setHeadBody, headOf_headByte, hg, hjudge, State.storeHead_beginTransaction, u32, BitVec.ofNat_toNat,
    BitVec.setWidth_eq]

end

/-! ## INTERLOCK_ACTION meets a HELD engine (R152) -/

/-- The state with a head's INTERLOCK_ACTION stored. -/
def State.withAction (s : State) (h : Head) (a : InterlockAction) : State :=
  s.modHead h (fun w => { w with settings := { w.settings with interlockAction := a } })

theorem State.storeHead_interlockAction (s : State) (h : Head) (v : Nat) :
    s.storeHead h .interlockAction v =
      if (s.head h).settings.interlockAction = interlockActionOf v then s.withAction h (interlockActionOf v)
      else (s.withAction h (interlockActionOf v)).actionChanged h := rfl

@[simp] theorem State.withAction_engine (s : State) (h : Head) (a : InterlockAction) :
    ((s.withAction h a).head h).engine = (s.head h).engine := by cases h <;> rfl

@[simp] theorem State.withAction_interlockAction (s : State) (h : Head) (a : InterlockAction) :
    ((s.withAction h a).head h).settings.interlockAction = a := by cases h <;> rfl

@[simp] theorem State.withAction_interlockActive (s : State) (h : Head) (a : InterlockAction) :
    interlockActive ((s.withAction h a).head h) = interlockActive (s.head h) := by cases h <;> rfl

theorem engineState_eq_held {e : Engine} (he : engineState e = .held) :
    ∃ ret job env ctx, e = .stroke (.held ret) job env ctx := by
  cases e with
  | idle => cases he
  | composing job => cases he
  | armed job env => cases he
  | stroke ph job env ctx =>
    cases ph with
    | held ret => exact ⟨ret, job, env, ctx, rfl⟩
    | _ => cases he

section
variable {s : State} {h : Head}

theorem State.actionChanged_of_not_held (he : engineState (s.head h).engine ≠ .held) : s.actionChanged h = s := by
  cases hk : (s.head h).engine with
  | stroke ph job env ctx =>
    cases ph with
    | held ret => exact absurd (congrArg engineState hk) he
    | _ => simp only [State.actionChanged, hk]
  | _ => simp only [State.actionChanged, hk]

/-- A HELD engine stays HELD under HOLD_LATCH, under HOLD_LEVEL while the interlock reads active, and under ABORT while it
reads inactive. -/
theorem State.actionChanged_stays
    (hstay : (s.head h).settings.interlockAction = .holdLatch ∨
      (s.head h).settings.interlockAction = .holdLevel ∧ interlockActive (s.head h) = true ∨
      (s.head h).settings.interlockAction = .abort ∧ interlockActive (s.head h) = false) :
    s.actionChanged h = s := by
  by_cases hheld : engineState (s.head h).engine = .held
  · obtain ⟨ret, job, env, ctx, he⟩ := engineState_eq_held hheld
    obtain ha | ⟨ha, hi⟩ | ⟨ha, hi⟩ := hstay
    · simp only [State.actionChanged, he, ha]
    · simp only [State.actionChanged, he, ha, hi]
    · simp only [State.actionChanged, he, ha, hi]
  · exact State.actionChanged_of_not_held hheld

variable {ret : Live} {job : Job} {env : Envelope} {ctx : Stroke}
  (he : (s.head h).engine = .stroke (.held ret) job env ctx)
include he

theorem State.actionChanged_returns (ha : (s.head h).settings.interlockAction = .holdLevel)
    (hi : interlockActive (s.head h) = false) : s.actionChanged h = s.returnFromHeld h ret job env ctx := by
  simp only [State.actionChanged, he, ha, hi]

theorem State.actionChanged_aborts (ha : (s.head h).settings.interlockAction = .abort)
    (hi : interlockActive (s.head h) = true) : s.actionChanged h = s.interlockAbort h job env ctx := by
  simp only [State.actionChanged, he, ha, hi]

end

/-- An abort by the interlock ends the stroke ABORTED, its notice before that of the verdict (R151). -/
theorem State.interlockAbort_concludes (s : State) (h : Head) (job : Job) (env : Envelope) (ctx : Stroke) :
    Concludes s h job env ctx .aborted [interlockHold h job ctx 1] (s.interlockAbort h job env ctx) :=
  s.postHead_concludes h job env ctx .aborted (interlockHold h job ctx 1)

/-- SET_HEAD of INTERLOCK_ACTION: the action is stored, and one that differs from the action before it meets the engine. -/
theorem exec_setHead_interlockAction {s : State} {h : Head} {v : Word} {a : InterlockAction} (hf : portFree s.cell)
    (hva : v = 0 ∧ a = .holdLevel ∨ v = 1 ∧ a = .holdLatch ∨ v = 2 ∧ a = .abort) :
    exec (.setHead .cell (headByte h) 11 v) s =
      .next ((if (s.head h).settings.interlockAction = a then s.withAction h a
        else (s.withAction h a).actionChanged h).withReply .cell 0x29 .ok ([headByte h, 11] ++ le32 v)) := by
  have hv : v.toNat < settingValues .interlockAction ∧ interlockActionOf v.toNat = a := by
    obtain ⟨rfl, rfl⟩ | ⟨rfl, rfl⟩ | ⟨rfl, rfl⟩ := hva <;> decide
  rw [exec_setHead_listed hf h rfl rfl hv.1, State.storeHead_interlockAction, hv.2]

/-! ## INTERLOCK_POLARITY acts as the input would (R152) -/

/-- The state with a head's INTERLOCK_POLARITY stored. -/
def State.withPolarity (s : State) (h : Head) (q : Polarity) : State :=
  s.modHead h (fun w => { w with settings := { w.settings with interlockPolarity := q } })

theorem State.storeHead_interlockPolarity (s : State) (h : Head) (v : Nat) :
    s.storeHead h .interlockPolarity v =
      (s.withPolarity h (polarityOf v)).interlockMoved h (interlockActive (s.head h)) := rfl

theorem State.withPolarity_own (s : State) (h : Head) :
    s.withPolarity h (s.head h).settings.interlockPolarity = s := by cases h <;> rfl

theorem State.interlockMoved_own (s : State) (h : Head) : s.interlockMoved h (interlockActive (s.head h)) = s :=
  if_pos rfl

/-- The other polarity reads the opposite level as this one reads the level. -/
theorem interlockReading_not {q r : Polarity} (hqr : q ≠ r) (high : Bool) :
    interlockReading q (!high) = interlockReading r high := by
  cases q with
  | activeHigh => cases r with
    | activeHigh => exact absurd rfl hqr
    | activeLow => rfl
  | activeLow => cases r with
    | activeHigh => exact Bool.not_not high
    | activeLow => exact absurd rfl hqr

/-- The state with a head's interlock input at a level, and nothing yet made of it. -/
def State.withInput (s : State) (h : Head) (level : Bool) : State :=
  s.modHead h (fun w => { w with lines := { w.lines with interlockHigh := level } })

theorem exec_interlockChange (s : State) (h : Head) (level : Bool) :
    exec (.interlockChange h level) s =
      .next ((s.withInput h level).interlockMoved h (interlockActive (s.head h))) := rfl

theorem State.withInput_withInput (s : State) (h : Head) (before level : Bool) :
    (s.withInput h before).withInput h level = s.withInput h level := by cases h <;> rfl

theorem State.withPolarity_withInput_own (s : State) (h : Head) (q : Polarity) :
    (s.withPolarity h q).withInput h (s.head h).lines.interlockHigh = s.withPolarity h q := by cases h <;> rfl

theorem State.withPolarity_withInput_active (s : State) (h : Head) (q : Polarity) (level : Bool) :
    interlockActive (((s.withPolarity h q).withInput h level).head h) = interlockReading q level := by
  cases h <;> rfl

/-- A new polarity acts as the input does when it moves to the level it has, from the opposite one, under that polarity. -/
theorem exec_interlockChange_withPolarity {s : State} {h : Head} {q : Polarity}
    (hq : q ≠ (s.head h).settings.interlockPolarity) :
    exec (.interlockChange h (s.head h).lines.interlockHigh)
        ((s.withPolarity h q).withInput h (!(s.head h).lines.interlockHigh)) =
      .next ((s.withPolarity h q).interlockMoved h (interlockActive (s.head h))) := by
  rw [exec_interlockChange, State.withInput_withInput, State.withPolarity_withInput_own,
    State.withPolarity_withInput_active, interlockReading_not hq]
  rfl

/-- SET_HEAD of INTERLOCK_POLARITY: the polarity is stored, and the change of the reading that it makes, if any, acts. -/
theorem exec_setHead_interlockPolarity {s : State} {h : Head} {v : Word} {q : Polarity} (hf : portFree s.cell)
    (hvq : v = 0 ∧ q = .activeHigh ∨ v = 1 ∧ q = .activeLow) :
    exec (.setHead .cell (headByte h) 12 v) s =
      .next (((s.withPolarity h q).interlockMoved h (interlockActive (s.head h))).withReply .cell 0x29 .ok
        ([headByte h, 12] ++ le32 v)) := by
  have hv : v.toNat < settingValues .interlockPolarity ∧ polarityOf v.toNat = q := by
    obtain ⟨rfl, rfl⟩ | ⟨rfl, rfl⟩ := hvq <;> decide
  rw [exec_setHead_listed hf h rfl rfl hv.1, State.storeHead_interlockPolarity, hv.2]

/-- Settles O29. A value that is not listed is refused; a new action leaves the engine as it is, lets it return or aborts
its stroke by the cases of R152; a polarity is stored again or acts as the movement of the input that gives the same
reading. -/
theorem interlockSettingsAct : Obligations.InterlockSettingsAct := by
  intro s h v hf
  refine ⟨fun hv => ?_, fun hv => ?_, fun a u hva hu => ?_, fun q u hvq hu => ?_⟩
  · exact exec_setHead_notListed hf h rfl rfl hv
  · exact exec_setHead_notListed hf h rfl rfl hv
  · obtain rfl : u = s.withAction h a := hu
    have hexec := exec_setHead_interlockAction (h := h) hf hva
    refine ⟨fun hstay => ?_, fun ret job env ctx he hnew => ?_⟩
    · rw [hexec]
      split
      case isTrue => rfl
      case isFalse hne =>
        obtain hheld | rfl | hstay := hstay
        · rw [State.actionChanged_of_not_held (by rwa [State.withAction_engine])]
        · exact absurd rfl hne
        · rw [State.actionChanged_stays (by simpa using hstay)]
    · rw [if_neg hnew.symm] at hexec
      have hengine := (s.withAction_engine h a).trans he
      have haction := s.withAction_interlockAction h a
      have hactive := s.withAction_interlockActive h a
      refine ⟨fun ha hi => ?_, fun ha hi => ?_⟩
      · rw [hexec, State.actionChanged_returns hengine (haction.trans ha) (hactive.trans hi)]
        rfl
      · rw [State.actionChanged_aborts hengine (haction.trans ha) (hactive.trans hi)] at hexec
        exact ⟨_, hexec, State.interlockAbort_concludes _ h job env ctx⟩
  · obtain rfl : u = s.withPolarity h q := hu
    have hexec := exec_setHead_interlockPolarity (h := h) hf hvq
    refine ⟨fun hq => ?_, fun hq => ?_⟩
    · rw [hexec, hq, State.withPolarity_own, State.interlockMoved_own]
    · exact ⟨_, exec_interlockChange_withPolarity hq, hexec⟩

end Sys2Proof.Machine
end

section
/-! PROOF. The pin verdicts of a verdict event (R160, R161). -/

namespace Sys2Proof.Machine

section
variable {job : Job} {ctx : Stroke} {o : StrokeOutcome} {p : Pin} {before : PinVerdict}

/-! ## The lane of a pin, and the kind of the claim -/

theorem pinLaneFailed_iff :
    pinLaneFailed job ctx p = true ↔
      ∃ l, ctx.lanes[p.lane]? = some l ∧ job.settings.excursionAllowance < l.excursions := by
  unfold pinLaneFailed laneFailed
  cases ctx.lanes[p.lane]? <;> simp

theorem pinVerdict_press_notLive (hk : job.kind = .press) (hl : p.live = false) :
    pinVerdict job ctx o p before = .empty := by
  simp [pinVerdict, hk, hl]

theorem pinVerdict_press_live (hk : job.kind = .press) (hl : p.live = true) :
    pinVerdict job ctx o p before = pressVerdict job ctx o p before := by
  simp [pinVerdict, hk, hl]

theorem pinVerdict_verify_notLive (hk : job.kind = .verify) (hl : p.live = false) :
    pinVerdict job ctx o p before = before := by
  simp [pinVerdict, hk, hl]

theorem pinVerdict_verify_live (hk : job.kind = .verify) (hl : p.live = true) :
    pinVerdict job ctx o p before = verifyVerdict ctx o p before := by
  simp [pinVerdict, hk, hl]

/-! ## The rows of R160 that depend on more than the outcome -/

theorem pressVerdict_windowFail_seated (hs : ctx.seatedDepth ≠ none) :
    pressVerdict job ctx .windowFail p before = if pinLaneFailed job ctx p then .laneFail else .pass := by
  simp [pressVerdict, Option.isSome_iff_ne_none.2 hs]

theorem pressVerdict_unseated
    (ho : o = .windowFail ∧ ctx.seatedDepth = none ∨ o = .earlySeat ∨ o = .notSeated) :
    pressVerdict job ctx o p before = if pinLaneFailed job ctx p then .laneFail else .notSeated := by
  obtain ⟨rfl, hs⟩ | rfl | rfl := ho
  · simp [pressVerdict, hs]
  · rfl
  · rfl

theorem pressVerdict_overforce_offending (hl : p.lane ∈ ctx.offending) :
    pressVerdict job ctx .overforce p before = .overforce := by
  simp [pressVerdict, hl]

theorem pressVerdict_overforce_other (hl : p.lane ∉ ctx.offending) :
    pressVerdict job ctx .overforce p before = if pinLaneFailed job ctx p then .laneFail else .notSeated := by
  simp [pressVerdict, hl]

theorem pressVerdict_cutShort (ho : o = .aborted ∨ o = .linkLost ∨ o = .sensorFault) :
    pressVerdict job ctx o p before = cutShortVerdict ctx p := by
  obtain rfl | rfl | rfl := ho <;> rfl

theorem cutShortVerdict_noContact (hc : ctx.contact = none) : cutShortVerdict ctx p = .notPressed := by
  simp [cutShortVerdict, hc]

theorem cutShortVerdict_contact {d : Int} (hc : ctx.contact ≠ none) (hd : ctx.maxDepth = some d) :
    cutShortVerdict ctx p = if (p.entryOffset : Int) ≤ d then .partialIn else .notPressed := by
  obtain ⟨c, hc⟩ := Option.ne_none_iff_exists'.1 hc
  simp [cutShortVerdict, hc, hd]

/-! ## The rows of R161 that depend on more than the outcome, or keep the verdict -/

theorem verifyVerdict_overforce :
    verifyVerdict ctx .overforce p before = if p.lane ∈ ctx.offending then .overforce else .notSeated := by
  simp [verifyVerdict]

theorem verifyVerdict_kept
    (ho : o = .verifyPass ∨ o = .noContact ∨ o = .aborted ∨ o = .linkLost ∨ o = .sensorFault) :
    verifyVerdict ctx o p before = before := by
  obtain rfl | rfl | rfl | rfl | rfl := ho <;> rfl

end

/-! ## A row with two verdicts -/

/-- A verdict chosen by a condition of the model, told by the same condition in the words of the rule. -/
theorem verdict_of_ite {c d : Prop} [Decidable d] {v a b : PinVerdict} (hcd : c ↔ d) (hv : v = if d then a else b) :
    (c → v = a) ∧ (¬ c → v = b) :=
  ⟨fun hc => hv.trans (if_pos (hcd.1 hc)), fun hc => hv.trans (if_neg (mt hcd.2 hc))⟩

/-- Settles O54. A verdict event writes `pinVerdict` at each index of the site's span; the rows of R160 and R161 follow one
by one. -/
theorem pinVerdictsByOutcome : Obligations.PinVerdictsByOutcome := by
  intro s h job env ctx o isFault k p before v failed offends hk hp hbefore hv hfailed hoffends
  have hwritten : v = pinVerdict job ctx o p before := by
    rw [hv, hp, hbefore]
    exact (s.verdictEvent_left h job env ctx o isFault).pins k hk
  have hlane : failed ↔ pinLaneFailed job ctx p = true := hfailed.trans pinLaneFailed_iff.symm
  refine ⟨fun hpress hdead => hwritten.trans (pinVerdict_press_notLive hpress hdead), fun hpress hlive => ?press,
    fun hverify => ⟨fun hdead => hwritten.trans (pinVerdict_verify_notLive hverify hdead), fun hlive => ?verify⟩⟩
  case press =>
    rw [pinVerdict_press_live hpress hlive] at hwritten
    refine ⟨?seatedPass, ?windowFail, fun ho => ?unseated, ?overforce, ?noContact,
      fun ho => ⟨fun hc => ?beforeContact, fun d hc hd => ?afterContact⟩⟩
    case seatedPass => rintro rfl; exact hwritten
    case windowFail =>
      rintro rfl hs
      exact verdict_of_ite hlane (hwritten.trans (pressVerdict_windowFail_seated hs))
    case unseated => exact verdict_of_ite hlane (hwritten.trans (pressVerdict_unseated ho))
    case overforce =>
      rintro rfl
      have hother (hn : ¬ offends) := verdict_of_ite hlane
        (hwritten.trans (pressVerdict_overforce_other (mt hoffends.2 hn)))
      exact ⟨fun hl => hwritten.trans (pressVerdict_overforce_offending (hoffends.1 hl)),
        fun hn => (hother hn).1, fun hn => (hother hn).2⟩
    case noContact => rintro rfl; exact hwritten
    case beforeContact =>
      exact hwritten.trans ((pressVerdict_cutShort ho).trans (cutShortVerdict_noContact hc))
    case afterContact =>
      obtain ⟨hin, hout⟩ := verdict_of_ite Iff.rfl
        (hwritten.trans ((pressVerdict_cutShort ho).trans (cutShortVerdict_contact hc hd)))
      exact ⟨hin, fun hlt => hout (Int.not_le.2 hlt)⟩
  case verify =>
    rw [pinVerdict_verify_live hverify hlive] at hwritten
    refine ⟨?verifyFail, ?overforce, fun ho => hwritten.trans (verifyVerdict_kept ho)⟩
    case verifyFail => rintro rfl; exact hwritten
    case overforce => rintro rfl; exact verdict_of_ite hoffends (hwritten.trans verifyVerdict_overforce)

end Sys2Proof.Machine
end

section
/-! PROOF. IDENTIFY (R180). -/

namespace Sys2Proof.Machine

/-! ## Every port takes it -/

theorem codeListed_identify (p : Port) : codeListed p (requestCode (.identify p)) = true := by
  cases p <;> rfl

/-- The bytes are read after the transaction has begun; what they tell is the same before it. -/
theorem identifyBytes_beginTransaction (s : State) (p q : Port) :
    identifyBytes (s.beginTransaction q) p = identifyBytes s p := by
  simp only [identifyBytes, State.beginTransaction_map, State.beginTransaction_library]

theorem exec_identify_taken (p : Port) (s : State) (hf : portFree (s.port p)) :
    exec (.identify p) s = .next (s.withReply p 0x01 .ok (identifyBytes s p)) :=
  congrArg Host.Outcome.next
    (receive_eq_withReply (.identify p) p _ s s .ok _ hf (by simp [frameLength, fieldBytes]) (codeListed_identify p) rfl
      (by rw [identifyBytes_beginTransaction]))

/-! ## The payload -/

/-- The revision and the capacities, of which only the number of pins, 4096, takes two bytes. -/
theorem capacityBytes :
    u8 Config.revision ++ u8 Config.siteCount ++ u16 Config.pinCount ++ u8 Config.laneLimit ++ u8 Config.pointLimit ++
        u8 Config.bankCount ++ u8 Config.stationLimit ++ u8 Config.noticeLimit ++ u8 Config.slotCount =
      [3, 64, 0x00, 0x10, 16, 8, 2, 128, 16, 2] := by decide

theorem mapModeByte (m : MapMode) : u8 (mapModeCode m) = [if m = .active then 1 else 0] := by
  cases m <;> rfl

theorem identifyBytes_eq (s : State) (p : Port) :
    identifyBytes s p =
      ([3, 64, 0x00, 0x10, 16, 8, 2, 128, 16, 2, if s.map.mode = .active then 1 else 0] : List Byte) ++
        le16 s.map.generation ++ le16 s.library.generation ++ u8 (if s.library.swapPending then 1 else 0) ++
        u8 (portCode p) := by
  rw [identifyBytes, capacityBytes, mapModeByte]
  rfl

/-- Settles O12: a free port of the three takes the request, and its payload is `identifyBytes`, field by field. -/
theorem identifyReports : Obligations.IdentifyReports := by
  intro p s hf
  rw [exec_identify_taken p s hf, identifyBytes_eq]
  rfl

end Sys2Proof.Machine
end

section
/-! PROOF. What a stroke holds in each of its states, and what a frame can make of it (R106, R111, R118, R119). -/

namespace Sys2Proof.Machine

/-! ## The law of a stroke, by its state -/

/-- What a stroke holds in every state: its counts, and its zeros from the eighth tare frame on. -/
structure ContextLaw (env : Envelope) (ctx : Stroke) : Prop where
  counts : CountLaw env ctx
  tare : ctx.tareCount ≤ 8
  zeros : ctx.tareZeros.isSome ↔ ctx.tareCount = 8

@[simp] theorem phaseLive_phaseOf (held : Bool) (l : Live) : phaseLive (phaseOf held l) = some (held, l) := by
  cases held <;> cases l <;> rfl

theorem phaseLive_eq_some {ph : Phase} {held : Bool} {l : Live} (hph : phaseLive ph = some (held, l)) :
    ph = phaseOf held l := by
  cases ph <;> cases hph <;> rfl

theorem strokeLaw_live_iff {env : Envelope} {ctx : Stroke} (held : Bool) (l : Live) :
    StrokeLaw (phaseOf held l) env ctx ↔
      ContextLaw env ctx ∧ ctx.outcome = none ∧ (l = .approach → ctx.contact = none ∧ ctx.stationIndex = 0) ∧
        (l ≠ .approach → ctx.contact.isSome ∧ ctx.tareZeros.isSome) := by
  constructor
  · intro ⟨hcounts, htare, hzeros, happroach, hengaged, _⟩
    have hlive := phaseLive_phaseOf held l
    by_cases hl : l = .approach
    · subst hl
      obtain ⟨hcontact, hindex, hout⟩ := happroach held hlive
      exact ⟨⟨hcounts, htare, hzeros⟩, hout, fun _ => ⟨hcontact, hindex⟩, fun hn => absurd rfl hn⟩
    · obtain ⟨hcontact, hz, hout⟩ := hengaged held l hlive hl
      exact ⟨⟨hcounts, htare, hzeros⟩, hout, fun h => absurd h hl, fun _ => ⟨hcontact, hz⟩⟩
  · intro ⟨⟨hcounts, htare, hzeros⟩, hout, happroach, hengaged⟩
    refine ⟨hcounts, htare, hzeros, fun held' h => ?_, fun held' l' h hl' => ?_, fun h => ?_⟩
    · obtain ⟨-, rfl⟩ : held = held' ∧ l = .approach := by simpa using h
      exact ⟨(happroach rfl).1, (happroach rfl).2, hout⟩
    · obtain ⟨-, rfl⟩ : held = held' ∧ l = l' := by simpa using h
      exact ⟨(hengaged hl').1, (hengaged hl').2, hout⟩
    · simp at h

theorem strokeLaw_ended_iff {ph : Phase} {env : Envelope} {ctx : Stroke} (hph : phaseLive ph = none) :
    StrokeLaw ph env ctx ↔ ContextLaw env ctx ∧ ctx.outcome.isSome := by
  constructor
  · intro ⟨hcounts, htare, hzeros, _, _, hended⟩
    exact ⟨⟨hcounts, htare, hzeros⟩, hended hph⟩
  · intro ⟨⟨hcounts, htare, hzeros⟩, hout⟩
    refine ⟨hcounts, htare, hzeros, fun held h => ?_, fun held l h => ?_, fun _ => hout⟩ <;>
      · rw [hph] at h
        cases h

theorem StrokeLaw.context {ph : Phase} {env : Envelope} {ctx : Stroke} (hl : StrokeLaw ph env ctx) :
    ContextLaw env ctx := ⟨hl.counts, hl.tare, hl.zeros⟩

/-- A stroke in ENGAGE may enter DWELL, held or not. -/
theorem strokeLaw_dwell {held : Bool} {env : Envelope} {ctx : Stroke} (hl : StrokeLaw (phaseOf held .engage) env ctx) :
    StrokeLaw (phaseOf held .dwell) env ctx := by
  rw [strokeLaw_live_iff] at hl ⊢
  obtain ⟨hctx, hout, -, hengaged⟩ := hl
  exact ⟨hctx, hout, fun h => (by cases h), fun _ => hengaged (by simp)⟩

/-- HELD holds what its return state holds. -/
theorem strokeLaw_held_iff {held held' : Bool} {l : Live} {env : Envelope} {ctx : Stroke} :
    StrokeLaw (phaseOf held l) env ctx ↔ StrokeLaw (phaseOf held' l) env ctx := by
  rw [strokeLaw_live_iff, strokeLaw_live_iff]

/-! ## The counts of a frame's stations (R118, R119) -/

theorem stationReach_le {index count pitch : Nat} {d : Int} (h : index ≤ count) :
    stationReach index count pitch d ≤ count := by
  unfold stationReach
  split <;> omega

theorem laneExcursions_length_le (e : EnvelopeLane) (force : Nat) (ks : List Nat) :
    (laneExcursions e force ks).length ≤ ks.length := by
  unfold laneExcursions
  split
  · exact List.length_filter_le _ _
  · exact Nat.zero_le _
  · exact Nat.zero_le _

theorem judgeLanes_excursions_le {n : Nat} (ks : List Nat) : ∀ (es : List EnvelopeLane) (fs : List Nat)
    (ls : List LaneTally), (∀ l ∈ ls, l.excursions ≤ n) → ∀ l ∈ judgeLanes ks es fs ls, l.excursions ≤ n + ks.length
  | e :: es, f :: fs, l :: ls, hls => by
    rw [List.forall_mem_cons] at hls
    simp only [judgeLanes, List.forall_mem_cons]
    refine ⟨?_, judgeLanes_excursions_le ks es fs ls hls.2⟩
    have := laneExcursions_length_le e f ks
    simp only [addExcursions]
    omega
  | [], _, ls, hls => fun l hl => (hls l hl).trans (Nat.le_add_right _ _)
  | _ :: _, [], ls, hls => fun l hl => (hls l hl).trans (Nat.le_add_right _ _)
  | _ :: _, _ :: _, [], _ => fun l hl => absurd hl List.not_mem_nil

theorem raisePeaks_excursions_le {n : Nat} : ∀ (ls : List LaneTally) (fs : List Nat),
    (∀ l ∈ ls, l.excursions ≤ n) → ∀ l ∈ raisePeaks ls fs, l.excursions ≤ n
  | l :: ls, f :: fs, hls => by
    rw [List.forall_mem_cons] at hls
    simp only [raisePeaks, List.forall_mem_cons]
    exact ⟨hls.1, raisePeaks_excursions_le ls fs hls.2⟩
  | [], _, _ => fun l hl => absurd hl List.not_mem_nil
  | _ :: _, [], hls => hls

section
variable {env : Envelope} {ctx : Stroke} (f : Sample) (forces : List Nat)

theorem evaluateStations_countLaw (job : Job) (hc : CountLaw env ctx) :
    CountLaw env (evaluateStations job env ctx f forces) := by
  have hlen : (frameStations job env ctx f).length =
      stationReach ctx.stationIndex (env.stationCount.getD 0) job.settings.stationPitch
        (f.displacement - ctx.contact.getD 0) - ctx.stationIndex := List.length_range'
  have hreach := stationReach_le (pitch := job.settings.stationPitch)
    (d := f.displacement - ctx.contact.getD 0) hc.stations
  have hindex := hc.stations
  exact ⟨by simp only [evaluateStations]; omega, hc.limit, judgeLanes_excursions_le _ _ _ _ hc.excursions⟩

theorem summarize_countLaw (hc : CountLaw env ctx) : CountLaw env (summarize ctx f forces) :=
  ⟨hc.stations, hc.limit, raisePeaks_excursions_le _ _ hc.excursions⟩

theorem summarize_strokeLaw {ph : Phase} (hl : StrokeLaw ph env ctx) :
    StrokeLaw ph env (summarize ctx f forces) :=
  { hl with counts := summarize_countLaw f forces hl.counts }

theorem startContext_strokeLaw {ph : Phase} (hl : StrokeLaw ph env ctx) : StrokeLaw ph env (startContext ctx f) :=
  { hl with counts := { hl.counts with } }

theorem evaluateStations_strokeLaw {held : Bool} (job : Job) (hl : StrokeLaw (phaseOf held .engage) env ctx) :
    StrokeLaw (phaseOf held .engage) env (evaluateStations job env ctx f forces) := by
  rw [strokeLaw_live_iff] at hl ⊢
  obtain ⟨⟨hcounts, htare, hzeros⟩, hout, -, hengaged⟩ := hl
  exact ⟨⟨evaluateStations_countLaw f forces job hcounts, htare, hzeros⟩, hout, fun h => (by cases h), hengaged⟩

/-- A tare frame: the zeros stand from the eighth on. -/
theorem addTare_strokeLaw {held : Bool} (hl : StrokeLaw (phaseOf held .approach) env ctx) (ht : ctx.tareCount < 8) :
    StrokeLaw (phaseOf held .approach) env (addTare ctx f) := by
  rw [strokeLaw_live_iff] at hl ⊢
  obtain ⟨⟨hcounts, htare, hzeros⟩, hout, happroach, -⟩ := hl
  refine ⟨⟨{ hcounts with }, ht, ?_⟩, hout, happroach, fun h => absurd rfl h⟩
  simp only [addTare]
  split
  · next h8 => exact iff_of_true rfl h8
  · next h8 => exact iff_of_false (fun hz => ht.ne (hzeros.1 hz)) h8

/-- The contact frame, which no tare frame is: the zeros stand. -/
theorem contactContext_strokeLaw {held : Bool} (hl : StrokeLaw (phaseOf held .approach) env ctx)
    (ht : 8 ≤ ctx.tareCount) : StrokeLaw (phaseOf held .engage) env (contactContext ctx f) := by
  rw [strokeLaw_live_iff] at hl ⊢
  obtain ⟨⟨hcounts, htare, hzeros⟩, hout, -, -⟩ := hl
  exact ⟨⟨{ hcounts with }, htare, hzeros⟩, hout, fun h => (by cases h),
    fun _ => ⟨rfl, hzeros.2 (le_antisymm htare ht)⟩⟩

end

/-! ## What the lines and the watch slots are told of a frame (R145, R170, R171) -/

theorem startFilling_slotLaw (h : Head) (job : Job) (env : Envelope) (w : WatchSlot) (hw : slotLaw w) :
    slotLaw (startFilling h job env w) := by
  unfold startFilling
  split
  · next m lane hstate hsite hlane =>
    split
    · obtain ⟨-, -, -, hout, htrace⟩ := hw
      refine ⟨?_, ?_, ?_, ?_, ?_⟩ <;> simp_all
    · exact hw
  · exact hw

theorem fillingFrom_state {h : Head} {w : WatchSlot} (hw : fillingFrom h w = true) : w.state = .filling := by
  unfold fillingFrom at hw
  simp only [Bool.and_eq_true, decide_eq_true_eq] at hw
  exact hw.1

theorem capture_slotLaw (h : Head) (env : Envelope) (displacement : Int) (forces ks : List Nat) (w : WatchSlot)
    (hw : slotLaw w) : slotLaw (capture h env displacement forces ks w) := by
  unfold capture
  split
  · next lane hfill hlane =>
    have hstate := fillingFrom_state hfill
    obtain ⟨hsite, hmatch, hsource, hout, -⟩ := hw
    refine ⟨hsite, hmatch, hsource, hout, fun h => ?_⟩
    simp [hstate] at h
  · exact hw

theorem slotAfter_slotLaw (h : Head) (o : StrokeOutcome) (w : WatchSlot) (hw : slotLaw w) :
    slotLaw (slotAfter h o w) := by
  unfold slotAfter
  split
  · next hfill =>
    have hstate := fillingFrom_state hfill
    obtain ⟨hsite, hmatch, hsource, -, -⟩ := hw
    refine ⟨?_, ?_, ?_, ?_, ?_⟩ <;> simp_all
  · exact hw

/-- Of the state the MARK pulse of the head and the watch slots alone have changed, the slots within their law. -/
structure Told (s : State) (h : Head) (u : State) : Prop where
  frame : ∃ pulse : Lines → Option Nat,
    u = { s with slot0 := u.slot0, slot1 := u.slot1 }.modLines h (fun l => { l with pulse := pulse l })
  slot0 : slotLaw s.slot0 → slotLaw u.slot0
  slot1 : slotLaw s.slot1 → slotLaw u.slot1

theorem Told.refl (s : State) (h : Head) : Told s h s := by
  refine ⟨⟨Lines.pulse, ?_⟩, id, id⟩
  cases h <;> rfl

theorem Told.trans {s u v : State} {h : Head} (hu : Told s h u) (hv : Told u h v) : Told s h v := by
  obtain ⟨⟨f, hf⟩, hu0, hu1⟩ := hu
  obtain ⟨⟨g, hg⟩, hv0, hv1⟩ := hv
  refine ⟨⟨fun l => g { l with pulse := f l }, ?_⟩, hv0 ∘ hu0, hv1 ∘ hu1⟩
  generalize v.slot0 = w0 at hg ⊢
  generalize v.slot1 = w1 at hg ⊢
  rw [hg, hf]
  cases h <;> rfl

theorem State.mark_told (s : State) (h : Head) (source : MarkSource) : Told s h (s.mark h source) := by
  refine ⟨⟨fun l => if l.markSource = source then some Config.pulseMicros else l.pulse, ?_⟩, by simp, by simp⟩
  have hlines : (fun l : Lines => if l.markSource = source then { l with pulse := some Config.pulseMicros } else l) =
      fun l => { l with pulse := if l.markSource = source then some Config.pulseMicros else l.pulse } := by
    funext l
    split <;> rfl
  unfold State.mark
  rw [hlines]
  cases h <;> rfl

theorem State.watchContact_told (s : State) (h : Head) (job : Job) (env : Envelope) :
    Told s h (s.watchContact h job env) := by
  unfold State.watchContact
  cases job.kind with
  | verify => exact Told.refl s h
  | press =>
    exact ⟨⟨Lines.pulse, by cases h <;> rfl⟩, startFilling_slotLaw h job env _, startFilling_slotLaw h job env _⟩

theorem State.watchStations_told (s : State) (h : Head) (env : Envelope) (d : Int) (forces ks : List Nat) :
    Told s h (s.watchStations h env d forces ks) :=
  ⟨⟨Lines.pulse, by cases h <;> rfl⟩, capture_slotLaw h env d forces ks _, capture_slotLaw h env d forces ks _⟩

theorem State.tellStations_told (s : State) (h : Head) (job : Job) (env : Envelope) (ctx : Stroke) (f : Sample)
    (forces : List Nat) : Told s h (s.tellStations h job env ctx f forces) := by
  have hmark : ∀ (u : State) (b : Bool) (source : MarkSource), Told s h u →
      Told s h (if b then u.mark h source else u) ∧ Told s h (if b then u else u.mark h source) := by
    intro u b source hu
    cases b
    · exact ⟨hu, hu.trans (u.mark_told h source)⟩
    · exact ⟨hu.trans (u.mark_told h source), hu⟩
  have htold := (hmark s (frameStations job env ctx f).isEmpty .station (Told.refl s h)).2
  have hmarked := (hmark _ (anyExcursion (frameStations job env ctx f) env.lanes forces) .excursion htold).1
  exact hmarked.trans (State.watchStations_told _ h env f.displacement forces _)

/-! ## What a frame can make of a stroke that is judged (R101, R113 to R126) -/

/-- A stroke of `s` comes to `t`: it faults, reaches an outcome, or stays in a state it is judged in, held as before. The law
of its context stands where `P` does, which is that it stood before. -/
inductive Turns (P : Prop) (s : State) (h : Head) (held : Bool) (job : Job) (env : Envelope) : State → Prop where
  | faults (ctx : Stroke) (o : StrokeOutcome) (b : Breach) (hctx : P → ContextLaw env ctx) :
      Turns P s h held job env (s.faultStroke h job env ctx o b)
  | concludes (ctx : Stroke) (o : StrokeOutcome) (hctx : P → ContextLaw env ctx) :
      Turns P s h held job env (s.conclude h job env ctx o)
  | stays (l : Live) (ctx : Stroke) (hlaw : P → StrokeLaw (phaseOf held l) env ctx) :
      Turns P s h held job env (s.stay h held l job env ctx)

section
variable {P : Prop} (s : State) (h : Head) (held : Bool) (job : Job) (env : Envelope) (ctx : Stroke) (f : Sample)
  (forces : List Nat)

theorem State.pressEnd_turns (hP : P → StrokeLaw (phaseOf held .engage) env ctx) :
    Turns P s h held job env (s.pressEnd h held job env ctx f forces) := by
  have hctx : P → ContextLaw env ctx := fun p => (hP p).context
  unfold State.pressEnd
  split
  · exact .concludes _ _ hctx
  · split
    · exact .stays _ _ hP
    · exact .concludes _ _ hctx
    · exact .concludes _ _ hctx
    · unfold State.seat
      split
      · exact .concludes _ _ (fun p => { hctx p with counts := { (hctx p).counts with } })
      · refine .stays _ _ (fun p => ?_)
        have hl := strokeLaw_dwell (hP p)
        exact { hl with counts := { hl.counts with } }

theorem State.verifyEnd_turns (hP : P → StrokeLaw (phaseOf held .engage) env ctx) :
    Turns P s h held job env (s.verifyEnd h held job env ctx f forces) := by
  unfold State.verifyEnd
  split
  · exact .concludes _ _ (fun p => (hP p).context)
  · split
    · exact .concludes _ _ (fun p => (hP p).context)
    · exact .stays _ _ hP

theorem State.engageFrame_turns (hP : P → StrokeLaw (phaseOf held .engage) env ctx) :
    ∃ u, Told s h u ∧ Turns P u h held job env (s.engageFrame h held job env ctx f forces) := by
  unfold State.engageFrame
  cases job.kind with
  | press =>
    exact ⟨_, s.tellStations_told h job env ctx f forces,
      State.pressEnd_turns _ h held job env _ f forces (fun p => evaluateStations_strokeLaw f forces job (hP p))⟩
  | verify => exact ⟨s, Told.refl s h, s.verifyEnd_turns h held job env ctx f forces hP⟩

theorem State.approachFrame_turns (hP : P → StrokeLaw (phaseOf held .approach) env ctx) (ht : 8 ≤ ctx.tareCount) :
    ∃ u, Told s h u ∧ Turns P u h held job env (s.approachFrame h held job env ctx f forces) := by
  unfold State.approachFrame
  split
  · have htold := (s.mark_told h .contact).trans (State.watchContact_told _ h job env)
    obtain ⟨u, hu, hturns⟩ := State.engageFrame_turns ((s.mark h .contact).watchContact h job env) h held job env
      (contactContext ctx f) f forces (fun p => contactContext_strokeLaw f (hP p) ht)
    exact ⟨u, htold.trans hu, hturns⟩
  · split
    · exact ⟨s, Told.refl s h, .concludes _ _ (fun p => (hP p).context)⟩
    · exact ⟨s, Told.refl s h, .stays _ _ hP⟩

theorem State.measuredFrame_turns {l : Live} (hP : P → StrokeLaw (phaseOf held l) env ctx)
    (ht : l = .approach → 8 ≤ ctx.tareCount) :
    ∃ u, Told s h u ∧ Turns P u h held job env (s.measuredFrame h held l job env ctx f) := by
  have hsum : ∀ forces, P → StrokeLaw (phaseOf held l) env (summarize ctx f forces) :=
    fun forces p => summarize_strokeLaw f forces (hP p)
  unfold State.measuredFrame
  split
  · exact ⟨s, Told.refl s h, .faults _ _ _ (fun p => (hsum _ p).context)⟩
  · cases l with
    | approach => exact s.approachFrame_turns h held job env _ f _ (hsum _) (ht rfl)
    | engage => exact s.engageFrame_turns h held job env _ f _ (hsum _)
    | dwell => exact ⟨s, Told.refl s h, .stays _ _ (hsum _)⟩

theorem State.tareFrame_turns (hP : P → StrokeLaw (phaseOf held .approach) env ctx) (ht : ctx.tareCount < 8) :
    Turns P s h held job env (s.tareFrame h held job env ctx f) := by
  have hadd : P → StrokeLaw (phaseOf held .approach) env (addTare ctx f) := fun p => addTare_strokeLaw f (hP p) ht
  unfold State.tareFrame
  split
  · exact .faults _ _ _ (fun p => (hadd p).context)
  · split
    · exact .concludes _ _ (fun p => (hadd p).context)
    · exact .stays _ _ hadd

/-- Everything that a frame can make of a stroke that is judged. -/
theorem State.liveFrame_turns (l : Live) :
    ∃ u, Told s h u ∧
      Turns (StrokeLaw (phaseOf held l) env ctx) u h held job env (s.liveFrame h held l job env ctx f) := by
  unfold State.liveFrame
  split
  · exact ⟨s, Told.refl s h, .faults _ _ _ StrokeLaw.context⟩
  · split
    · next htare =>
      obtain ⟨rfl, ht⟩ := htare
      exact ⟨s, Told.refl s h, s.tareFrame_turns h held job env _ f (startContext_strokeLaw f) ht⟩
    · next htare =>
      exact s.measuredFrame_turns h held job env _ f (startContext_strokeLaw f)
        (fun hl => Nat.not_lt.1 (fun ht => htare ⟨hl, ht⟩))

end

end Sys2Proof.Machine
end

section
/-! PROOF. What the requests of the Board Map can do to the state (R5 to R9, R16, R18). -/

namespace Sys2Proof.Machine

/-! ## The runs and walks of the Board Map, whatever they meet -/

/-- A run of LOCK_SITES sets the flags of some sites, none of which is held. -/
theorem State.lockRun_setLocks (n : Nat) : ∀ (s : State) (i : Nat),
    ∃ m, (s.lockRun i n).1 = s.setLocks i m true ∧ ∀ j, j < m → siteHeld (s.site (i + j)) = false := by
  induction n with
  | zero => exact fun s i => ⟨0, rfl, fun j hj => absurd hj (Nat.not_lt_zero j)⟩
  | succ n ih =>
    intro s i
    unfold State.lockRun
    split
    · exact ⟨0, rfl, fun j hj => absurd hj (Nat.not_lt_zero j)⟩
    · next hfree =>
      obtain ⟨m, hm, hheld⟩ := ih (s.setLock i true) (i + 1)
      refine ⟨m + 1, hm.trans (s.setLock_setLocks i m true), fun j hj => ?_⟩
      cases j with
      | zero => simpa using hfree
      | succ j =>
        have := hheld j (by omega)
        rwa [State.setLock_site, show i + 1 + j = i + (j + 1) by omega] at this

theorem lockSitesBody_setLocks (first count : Byte) (s : State) :
    ∃ i m, (lockSitesBody first count s).1 = s.setLocks i m true ∧
      ∀ j, j < m → siteHeld (s.site (i + j)) = false := by
  unfold lockSitesBody
  split
  · exact ⟨0, 0, rfl, fun j hj => absurd hj (Nat.not_lt_zero j)⟩
  · obtain ⟨m, hm, hheld⟩ := State.lockRun_setLocks (runLength first count) s first.toNat
    refine ⟨first.toNat, m, ?_, hheld⟩
    split <;> next heq => rw [heq] at hm; exact hm

theorem unlockSitesBody_setLocks (first count : Byte) (s : State) :
    ∃ i m, (unlockSitesBody first count s).1 = s.setLocks i m false := by
  unfold unlockSitesBody
  split
  · exact ⟨0, 0, rfl⟩
  · exact ⟨_, _, State.unlockRun_eq_setLocks _ _ _⟩

/-- What an editing of the map leaves, whose records and verdicts may be emptied and whose open transfer overtaken. -/
structure Edited (s : State) (m : BoardMap) (t : State) : Prop where
  frame : ∃ tr, t = { s with
    map := m, records := t.records, verdicts := t.verdicts, cell := { s.cell with transfer := tr } }
  records : ∀ i, t.record i = PressRecord.emptyForm ∨ t.record i = s.record i
  recordsWf : Table.wf PressRecord.emptyForm s.records = true → Table.wf PressRecord.emptyForm t.records = true
  verdictsWf : Table.wf PinVerdict.noVerdict s.verdicts = true → Table.wf PinVerdict.noVerdict t.verdicts = true

theorem Edited.map (s : State) (m : BoardMap) : Edited s m { s with map := m } :=
  ⟨⟨s.cell.transfer, rfl⟩, fun _ => .inr rfl, id, id⟩

theorem Edited.trans {s t u : State} {m m' : BoardMap} (ht : Edited s m t) (hu : Edited t m' u) : Edited s m' u := by
  obtain ⟨⟨tr, hframe⟩, hrec, hrecs, hverd⟩ := ht
  obtain ⟨⟨tr', hframe'⟩, hrec', hrecs', hverd'⟩ := hu
  refine ⟨⟨tr', ?_⟩, fun i => ?_, hrecs' ∘ hrecs, hverd' ∘ hverd⟩
  · rw [hframe', hframe]
  · rcases hrec' i with h | h
    · exact .inl h
    · rw [h]; exact hrec i

theorem State.invalidateSite_edited (s : State) (i : Nat) : Edited s s.map (s.invalidateSite i) := by
  refine ⟨⟨_, s.invalidateSite_eq i⟩, fun j => ?_, fun h => Table.wf_set _ _ i PressRecord.emptyForm h,
    fun h => Table.wf_update PinVerdict.noVerdict _ _ _ (fun _ _ => .noVerdict) h⟩
  rw [State.invalidateSite_record]
  split
  · exact .inl rfl
  · exact .inr rfl

theorem State.invalidateSite_map (s : State) (i : Nat) : (s.invalidateSite i).map = s.map := rfl

theorem State.foldInvalidate_edited (sites : List Nat) :
    ∀ s : State, Edited s s.map (sites.foldl State.invalidateSite s) := by
  induction sites with
  | nil => exact fun s => Edited.map s s.map
  | cons i is ih => exact fun s => (s.invalidateSite_edited i).trans (ih (s.invalidateSite i))

theorem State.invalidateSpan_edited (s : State) (span : Nat × Nat) : Edited s s.map (s.invalidateSpan span) := by
  have hspan : Edited s s.map
      { s with verdicts := Table.update PinVerdict.noVerdict s.verdicts span.1 span.2 (fun _ _ => .noVerdict) } :=
    ⟨⟨s.cell.transfer, rfl⟩, fun _ => .inr rfl, id, Table.wf_update _ _ _ _ _⟩
  exact hspan.trans (State.foldInvalidate_edited _ _)

/-- WRITE_SITE writes one site of the map, in MAP_EDIT, with a record within its ranges. -/
theorem writeSiteBody_cases (site : Byte) (f : SiteFields) (s : State) :
    (writeSiteBody site f s).1 = s ∨
      s.map.mode = .edit ∧ siteFieldsBad site f = false ∧
        Edited s (s.setSite site.toNat (writtenSite f)).map (writeSiteBody site f s).1 := by
  unfold writeSiteBody
  split
  · exact .inl rfl
  · next hmode =>
    split
    · exact .inl rfl
    · next hbad =>
      refine .inr ⟨by cases h : s.map.mode <;> simp_all, by simpa using hbad, ?_⟩
      exact ((Edited.map s _).trans (State.invalidateSite_edited _ _)).trans (State.invalidateSpan_edited _ _)

/-- CLEAR_SITE writes one site of the map, in MAP_EDIT, with the values of an undefined site. -/
theorem clearSiteBody_cases (site : Byte) (s : State) :
    (clearSiteBody site s).1 = s ∨
      s.map.mode = .edit ∧ Edited s (s.setSite site.toNat Site.undefined).map (clearSiteBody site s).1 := by
  unfold clearSiteBody
  split
  · exact .inl rfl
  · next hmode =>
    split
    · exact .inl rfl
    · refine .inr ⟨by cases h : s.map.mode <;> simp_all, ?_⟩
      have hspan := s.invalidateSpan_edited (pinSpan (s.site site.toNat))
      have hmap : (s.invalidateSpan (pinSpan (s.site site.toNat))).map = s.map := by
        obtain ⟨_, hframe⟩ := hspan.frame
        rw [hframe]
      have hsite := (hspan.trans (State.invalidateSite_edited _ site.toNat)).trans (Edited.map _
        (((s.invalidateSpan (pinSpan (s.site site.toNat))).invalidateSite site.toNat).setSite site.toNat
          Site.undefined).map)
      have hset : (((s.invalidateSpan (pinSpan (s.site site.toNat))).invalidateSite site.toNat).setSite site.toNat
          Site.undefined).map = (s.setSite site.toNat Site.undefined).map := by
        simp only [State.setSite, State.invalidateSite_map, hmap]
      rw [hset] at hsite
      rwa [show ((s.invalidateSpan (pinSpan (s.site site.toNat))).invalidateSite site.toNat).setSite site.toNat
          Site.undefined = { (s.invalidateSpan (pinSpan (s.site site.toNat))).invalidateSite site.toNat with
            map := (s.setSite site.toNat Site.undefined).map } by rw [← hset]; rfl]

/-- The state with these pin records written from an index on. -/
theorem State.writePins_map (entries : List PinEntry) : ∀ (s : State) (first : Nat),
    s.writePins first entries = { s with map := (s.writePins first entries).map } ∧
      (s.writePins first entries).map = { s.map with pins := (s.writePins first entries).map.pins } := by
  induction entries with
  | nil => exact fun s first => ⟨rfl, rfl⟩
  | cons e es ih =>
    intro s first
    simp only [State.writePins]
    obtain ⟨hframe, hmap⟩ := ih
      { s with map := { s.map with pins := Table.set Pin.blank s.map.pins first (entryPin e) } } (first + 1)
    exact ⟨hframe, hmap⟩

/-- WRITE_PINS writes pin records of the map, in MAP_EDIT, from entries within their ranges. -/
theorem writePinsBody_cases (first : Half) (count : Byte) (entries : List PinEntry) (s : State) :
    (writePinsBody first count entries s).1 = s ∨
      s.map.mode = .edit ∧ entries.any pinEntryBad = false ∧
        Edited s (s.writePins first.toNat entries).map (writePinsBody first count entries s).1 := by
  unfold writePinsBody
  split
  · exact .inl rfl
  · next hmode =>
    split
    · exact .inl rfl
    · next hbad =>
      refine .inr ⟨by cases h : s.map.mode <;> simp_all, by simpa using (not_or.1 (not_or.1 (not_or.1 hbad).2).2).2, ?_⟩
      have hspan := State.invalidateSpan_edited (s.writePins first.toNat entries) (first.toNat, entries.length)
      have hmap := Edited.map s (s.writePins first.toNat entries).map
      rw [← (State.writePins_map entries s first.toNat).1] at hmap
      exact hmap.trans hspan

end Sys2Proof.Machine
end

section
/-! PROOF. Every step keeps the law of the strokes and of the Press Records (R118, R119). -/

namespace Sys2Proof.Machine

theorem recordLaw_emptyForm : recordLaw PressRecord.emptyForm :=
  ⟨Nat.zero_le _, fun _ hl => absurd hl List.not_mem_nil⟩

theorem WorkLaw.engine {s : State} (hs : WorkLaw s) (h : Head) : engineLaw (s.head h).engine := by
  cases h
  · exact hs.engineA
  · exact hs.engineB

theorem workLaw_of_heads {s : State} (he : ∀ h, engineLaw (s.head h).engine) (hr : ∀ i, recordLaw (s.record i)) :
    WorkLaw s := ⟨he .a, he .b, hr⟩

/-- The law of a stroke, from the engine that runs it. -/
theorem WorkLaw.stroke {s : State} (hs : WorkLaw s) {h : Head} {ph : Phase} {job : Job} {env : Envelope} {ctx : Stroke}
    (he : (s.head h).engine = .stroke ph job env ctx) : StrokeLaw ph env ctx := by
  have := hs.engine h
  rwa [he] at this

/-- The law of a context that the end of a stroke records. -/
theorem strokeLaw_ended {ph : Phase} {env : Envelope} {ctx : Stroke} (hph : phaseLive ph = none)
    (hctx : ContextLaw env ctx) (hout : ctx.outcome.isSome) : StrokeLaw ph env ctx :=
  (strokeLaw_ended_iff hph).2 ⟨hctx, hout⟩

/-! ## What each shared operation keeps -/

namespace WorkLaw

section
variable {s : State} (hs : WorkLaw s)
include hs

/-- The law reads the engines and the records alone. -/
theorem of_same {t : State} (he : ∀ h, (t.head h).engine = (s.head h).engine) (hr : t.records = s.records) :
    WorkLaw t :=
  workLaw_of_heads (fun h => he h ▸ hs.engine h) (fun i => by rw [State.record, hr]; exact hs.records i)

theorem modHead (h : Head) (f : HeadUnit → HeadUnit) (hf : engineLaw (f (s.head h)).engine) :
    WorkLaw (s.modHead h f) := by
  refine workLaw_of_heads (fun k => ?_) (fun i => by rw [State.modHead_record]; exact hs.records i)
  rw [State.head_modHead]
  split
  · next hk => rw [hk]; exact hf
  · exact hs.engine k

/-- Of a head the law reads the engine alone. -/
theorem modHead_same (h : Head) (f : HeadUnit → HeadUnit) (hf : (f (s.head h)).engine = (s.head h).engine) :
    WorkLaw (s.modHead h f) := hs.modHead h f (hf ▸ hs.engine h)

theorem setEngine (h : Head) (e : Engine) (he : engineLaw e) : WorkLaw (s.setEngine h e) := hs.modHead h _ he

theorem modPort (p : Port) (f : PortUnit → PortUnit) : WorkLaw (s.modPort p f) :=
  hs.of_same (fun h => by rw [State.modPort_head]) (State.modPort_records s p f)

theorem postHead (h : Head) (n : Notice) : WorkLaw (s.postHead h n) :=
  hs.of_same (fun k => by rw [State.postHead_head]) (State.postHead_records s h n)

theorem trySwap : WorkLaw s.trySwap := by
  unfold State.trySwap
  split
  · exact hs.of_same (fun h => by cases h <;> rfl) rfl
  · exact hs

theorem setSlot (k : Nat) (w : WatchSlot) : WorkLaw (s.setSlot k w) := by
  unfold State.setSlot
  split <;> exact hs.of_same (fun h => by cases h <;> rfl) rfl

theorem setSite (i : Nat) (x : Site) : WorkLaw (s.setSite i x) :=
  hs.of_same (fun h => by rw [State.setSite_head]) rfl

theorem setClaim (h : Head) (c : Option Claim) : WorkLaw (s.setClaim h c) := hs.modHead_same h _ rfl

theorem setWaiting (h : Head) (w : Option Wait) : WorkLaw (s.setWaiting h w) := hs.modHead_same h _ rfl

theorem modLines (h : Head) (f : Lines → Lines) : WorkLaw (s.modLines h f) := hs.modHead_same h _ rfl

theorem assertStop (h : Head) : WorkLaw (s.assertStop h) := hs.modLines h _

theorem setSilence (h : Head) (t : Option Nat) : WorkLaw (s.setSilence h t) := hs.modHead_same h _ rfl

theorem markDue (h : Head) : WorkLaw (s.markDue h) := hs.modHead_same h _ rfl

theorem releaseSite (h : Head) (i : Nat) (st : SiteState) : WorkLaw (s.releaseSite h i st) :=
  ((hs.setSite i _).setClaim h none).markDue (otherHead h)

theorem grant (h : Head) (i : Nat) (k : Kind) : WorkLaw (s.grant h i k) := (hs.setSite i _).setClaim h _

theorem toIdle (h : Head) : WorkLaw (s.toIdle h) := (hs.setEngine h .idle trivial).setSilence h none

theorem edited {m : BoardMap} {t : State} (ht : Edited s m t) : WorkLaw t := by
  obtain ⟨⟨tr, hframe⟩, hrec, -, -⟩ := ht
  refine workLaw_of_heads (fun h => ?_) (fun i => ?_)
  · rw [hframe]
    cases h
    · exact hs.engineA
    · exact hs.engineB
  · rcases hrec i with hi | hi <;> rw [hi]
    · exact recordLaw_emptyForm
    · exact hs.records i

/-! ## The verdict event and what follows it -/

theorem verdictEvent (h : Head) (job : Job) {env : Envelope} {ctx : Stroke} (o : StrokeOutcome) (isFault : Bool)
    (hc : CountLaw env ctx) : WorkLaw (s.verdictEvent h job env ctx o isFault) := by
  obtain ⟨⟨lanes, hrecord, hlength, hlanes⟩, hother, -⟩ := s.verdictEvent_left h job env ctx o isFault
  refine workLaw_of_heads (fun k => ?_) (fun i => ?_)
  · rw [State.verdictEvent_frame]
    cases k
    · exact hs.engineA
    · exact hs.engineB
  · by_cases hi : i = job.site
    · rw [hi, hrecord]
      refine ⟨hc.stations.trans hc.limit, fun l hl => ?_⟩
      obtain ⟨k, hk, rfl⟩ := List.mem_iff_getElem.1 hl
      have hmin : k < env.lanes.length ∧ k < ctx.lanes.length := by
        have hk' : k < lanes.length := hk
        omega
      have hsummary := hlanes k _ _ (List.getElem?_eq_getElem hmin.1) (List.getElem?_eq_getElem hmin.2)
      rw [List.getElem?_eq_getElem hk, Option.some.injEq] at hsummary
      rw [hsummary]
      exact hc.excursions _ (List.getElem_mem hmin.2)
    · rw [hother i hi]
      exact hs.records i

theorem conclude (h : Head) (job : Job) {env : Envelope} {ctx : Stroke} (o : StrokeOutcome)
    (hc : ContextLaw env ctx) : WorkLaw (s.conclude h job env ctx o) :=
  (hs.verdictEvent h job o false hc.counts).setEngine h _
    (strokeLaw_ended rfl { hc with counts := { hc.counts with } } rfl)

theorem faultStroke (h : Head) (job : Job) {env : Envelope} {ctx : Stroke} (o : StrokeOutcome) (b : Breach)
    (hc : ContextLaw env ctx) : WorkLaw (s.faultStroke h job env ctx o b) := by
  have hcounts : CountLaw env (faultContext ctx o b) := { hc.counts with }
  have hlaw : engineLaw (.stroke .faulted job env (faultContext ctx o b)) :=
    strokeLaw_ended rfl { hc with counts := hcounts } rfl
  exact (((hs.verdictEvent h job o true hcounts).assertStop h).setEngine h _ hlaw).setSilence h none

theorem lateFault (h : Head) (job : Job) {env : Envelope} {ctx : Stroke} (o : StrokeOutcome)
    (hl : StrokeLaw .retract env ctx) : WorkLaw (s.lateFault h job env ctx o) := by
  have hlaw : engineLaw (.stroke .faulted job env ctx) := strokeLaw_ended rfl hl.context (hl.ended rfl)
  exact (((hs.assertStop h).setEngine h _ hlaw).setSilence h none).postHead h _

theorem settleSite (h : Head) (job : Job) (st : Option SiteState) : WorkLaw (s.settleSite h job st) := by
  cases st with
  | some x => exact hs.releaseSite h job.site x
  | none => exact hs.setSite _ _

theorem endStroke (h : Head) (job : Job) (ctx : Stroke) (o : StrokeOutcome) (cleared : Bool) :
    WorkLaw (s.endStroke h job ctx o cleared) :=
  (((hs.settleSite h job _).toIdle h).postHead h _).trySwap

theorem failComposition (h : Head) (job : Job) (f : CompositionFailure) : WorkLaw (s.failComposition h job f) :=
  (hs.toIdle h).postHead h _

/-! ## HELD, the interlock and the frames -/

theorem told {h : Head} {u : State} (hu : Told s h u) : WorkLaw u := by
  obtain ⟨⟨pulse, hframe⟩, -, -⟩ := hu
  rw [hframe]
  have hslots : WorkLaw { s with slot0 := u.slot0, slot1 := u.slot1 } := hs.of_same (fun k => by cases k <;> rfl) rfl
  exact hslots.modLines h _

theorem turns {P : Prop} {h : Head} {held : Bool} {job : Job} {env : Envelope} {t : State} (hP : P)
    (ht : Turns P s h held job env t) : WorkLaw t := by
  cases ht with
  | faults ctx o b hctx => exact hs.faultStroke h job o b (hctx hP)
  | concludes ctx o hctx => exact hs.conclude h job o (hctx hP)
  | stays l ctx hlaw => exact hs.setEngine h _ (hlaw hP)

theorem liveFrame (h : Head) (held : Bool) (l : Live) (job : Job) {env : Envelope} {ctx : Stroke} (f : Sample)
    (hl : StrokeLaw (phaseOf held l) env ctx) : WorkLaw (s.liveFrame h held l job env ctx f) := by
  obtain ⟨u, htold, hturns⟩ := s.liveFrame_turns h held job env ctx f l
  exact (hs.told htold).turns hl hturns

theorem retractFrame (h : Head) (job : Job) {env : Envelope} {ctx : Stroke} (f : Sample)
    (hl : StrokeLaw .retract env ctx) : WorkLaw (s.retractFrame h job env ctx f) := by
  have hctx := hl.context
  unfold State.retractFrame
  split
  · exact hs.lateFault h job _ hl
  · split
    · exact hs.lateFault h job _ (strokeLaw_ended rfl { hctx with counts := { hctx.counts with } } (hl.ended rfl))
    · split
      · exact hs.endStroke h job _ _ _
      · exact hs.setEngine h _
          (strokeLaw_ended rfl { hctx with counts := { hctx.counts with } } (hl.ended rfl))

theorem deliver (h : Head) (f : Sample) : WorkLaw (s.deliver h f) := by
  unfold State.deliver
  cases he : (s.head h).engine with
  | stroke ph job env ctx =>
    have hl := hs.stroke he
    cases ph with
    | approach => exact hs.liveFrame h false .approach job f hl
    | engage => exact hs.liveFrame h false .engage job f hl
    | dwell => exact hs.liveFrame h false .dwell job f hl
    | held ret => exact hs.liveFrame h true ret job f hl
    | retract => exact hs.retractFrame h job f hl
    | faulted => exact hs
  | _ => exact hs

/-- A stroke that is judged may be held, and one that is held return: both hold the same. -/
theorem setHeld (h : Head) {held held' : Bool} {l : Live} (job : Job) {env : Envelope} {ctx : Stroke}
    (hl : StrokeLaw (phaseOf held l) env ctx) : WorkLaw (s.setEngine h (.stroke (phaseOf held' l) job env ctx)) :=
  hs.setEngine h _ (strokeLaw_held_iff.1 hl)

theorem hold (h : Head) (l : Live) (job : Job) {env : Envelope} {ctx : Stroke}
    (hl : StrokeLaw (phaseOf false l) env ctx) : WorkLaw (s.hold h l job env ctx) :=
  (hs.setHeld (held' := true) h job hl).postHead h _

theorem returnFromHeld (h : Head) (l : Live) (job : Job) {env : Envelope} {ctx : Stroke}
    (hl : StrokeLaw (.held l) env ctx) : WorkLaw (s.returnFromHeld h l job env ctx) :=
  (hs.setHeld (held := true) (held' := false) h job hl).postHead h _

theorem interlockAbort (h : Head) (job : Job) {env : Envelope} {ctx : Stroke} (hc : ContextLaw env ctx) :
    WorkLaw (s.interlockAbort h job env ctx) := (hs.postHead h _).conclude h job .aborted hc

theorem interlockOn (h : Head) : WorkLaw (s.interlockOn h) := by
  unfold State.interlockOn
  split
  · next ph job env ctx he =>
    have hl := hs.stroke he
    split
    · exact hs.interlockAbort h job hl.context
    · next hph _ => exact hs.hold h _ job (phaseLive_eq_some hph ▸ hl)
    · next hph _ => exact hs.hold h _ job (phaseLive_eq_some hph ▸ hl)
    · exact hs
    · exact hs
    · exact hs
  all_goals exact hs

theorem interlockOff (h : Head) : WorkLaw (s.interlockOff h) := by
  unfold State.interlockOff
  split
  · next he _ => exact hs.returnFromHeld h _ _ (hs.stroke he)
  · exact hs

theorem interlockMoved (h : Head) (before : Bool) : WorkLaw (s.interlockMoved h before) := by
  unfold State.interlockMoved
  split
  · exact hs
  · split
    · exact hs.interlockOn h
    · exact hs.interlockOff h

theorem actionChanged (h : Head) : WorkLaw (s.actionChanged h) := by
  unfold State.actionChanged
  split
  · next he =>
    have hl := hs.stroke he
    split
    · exact hs.returnFromHeld h _ _ hl
    · exact hs.interlockAbort h _ hl.context
    all_goals exact hs
  all_goals exact hs

theorem storeHead (h : Head) (g : Setting) (v : Nat) : WorkLaw (s.storeHead h g v) := by
  have hstored : WorkLaw (s.modHead h (fun u => { u with settings := storeSetting u.settings g v })) :=
    hs.modHead_same h _ rfl
  unfold State.storeHead
  cases g with
  | interlockPolarity => exact hstored.interlockMoved h _
  | interlockAction =>
    dsimp only
    split
    · exact hstored
    · exact hstored.actionChanged h
  | _ => exact hstored

/-! ## HEAD_CLEAR and RESTART -/

theorem releaseClaim (h : Head) : WorkLaw (s.releaseClaim h) := by
  unfold State.releaseClaim
  split
  · exact hs.releaseSite h _ _
  · exact hs

theorem clearEngine (h : Head) : WorkLaw (s.clearEngine h) := by
  unfold State.clearEngine
  split
  · exact hs.releaseClaim h
  · exact ((hs.releaseClaim h).failComposition h _ _).trySwap
  · exact ((hs.releaseClaim h).toIdle h).trySwap
  · next he =>
    have hl := hs.stroke he
    split
    · exact (hs.verdictEvent h _ .aborted false hl.counts).endStroke h _ _ _ _
    · exact hs.endStroke h _ _ _ _

theorem restartVerdict (h : Head) : WorkLaw (s.restartVerdict h) := by
  unfold State.restartVerdict
  split
  · next he =>
    split
    · exact hs.verdictEvent h _ .aborted false (hs.stroke he).counts
    · exact hs
  all_goals exact hs

theorem restartClaim (h : Head) : WorkLaw (s.restartClaim h) := by
  unfold State.restartClaim
  split
  · exact ((hs.setSite _ _).setClaim h none).setWaiting h none
  · exact hs.setWaiting h none

theorem restartHead (h : Head) : WorkLaw (s.restartHead h) := ((hs.restartVerdict h).restartClaim h).toIdle h

theorem restartSettings (h : Head) : WorkLaw (s.restartSettings h) := by
  unfold State.restartSettings
  split
  · exact hs
  · exact hs.modHead_same h _ rfl

theorem restarted : WorkLaw s.restarted := by
  have hheads := (((hs.restartHead .a).restartHead .b).restartSettings .a).restartSettings .b
  have hstop := (hheads.assertStop .a).assertStop .b
  exact (((hstop.modPort .cell _).modPort .headA _).modPort .headB _).trySwap

end

end WorkLaw

/-! ## ARM, START and the composition -/

theorem walkOfVerify_stationCount (s : State) (h : Head) {job : Job} (hk : job.kind = .verify) :
    (s.compose h job).stationCount = none := by simp only [State.compose, hk]

/-- A composition whose checks pass has at most 128 stations (R81). -/
theorem compose_stationCount_le {s : State} {h : Head} {job : Job} (hf : s.compositionFault h job = none) :
    (s.compose h job).stationCount.getD 0 ≤ 128 := by
  cases hk : job.kind with
  | verify => rw [walkOfVerify_stationCount s h hk]; exact Nat.zero_le _
  | press =>
    simp only [State.compositionFault, hk] at hf
    split at hf
    · cases hf
    · next hle =>
      simp only [State.compose, hk, Option.getD_some]
      exact Nat.not_lt.1 hle

theorem startStroke_strokeLaw {env : Envelope} (laneCount : Nat) (t : Snapshot)
    (he : env.stationCount.getD 0 ≤ 128) : StrokeLaw .approach env (startStroke laneCount t) := by
  refine (strokeLaw_live_iff false .approach).2 ⟨⟨⟨Nat.zero_le _, he, fun l hl => ?_⟩, Nat.zero_le _, ?_⟩, rfl,
    fun _ => ⟨rfl, rfl⟩, fun h => absurd rfl h⟩
  · obtain rfl := List.eq_of_mem_replicate hl
    exact Nat.zero_le _
  · exact iff_of_false Bool.false_ne_true (Nat.zero_ne_add_one 7)

theorem tickEngine_law {e : Engine} (he : engineLaw e) : engineLaw (tickEngine e) := by
  cases e with
  | stroke ph job env ctx =>
    have hl : StrokeLaw ph env ctx := he
    cases ph with
    | dwell => exact { hl with counts := { hl.counts with } }
    | _ => exact hl
  | _ => exact he

/-! ## Every command -/

theorem keeps_workLaw : Keeps WorkLaw where
  port s p f _ hs := hs.modPort p f
  rest s q hs := hs.of_same (fun h => by cases h <;> rfl) rfl
  tick s hs := ⟨tickEngine_law hs.engineA, tickEngine_law hs.engineB, hs.records⟩
  hardReset s _ := ⟨trivial, trivial, fun _ => recordLaw_emptyForm⟩
  restart s hs := hs.restarted
  setBlock size s hs := by
    unfold setBlockBody
    split
    · exact hs.of_same (fun h => by cases h <;> rfl) rfl
    · exact hs
  fetchNotice p s hs := by
    unfold fetchNoticeBody
    split
    · exact hs.modPort p (fun u => { u with queue := { items := [], overrun := false } })
    · next rest _ => exact hs.modPort p (fun u => { u with queue := { items := rest, overrun := false } })
  mapEdit s hs := by
    unfold mapEditBody
    split
    · exact hs
    · split
      · exact hs
      · exact hs.of_same (fun h => by cases h <;> rfl) rfl
  mapActivate s hs := by
    unfold mapActivateBody
    split
    · exact hs
    · split
      · exact hs
      · split
        · exact hs
        · exact hs.of_same (fun h => by cases h <;> rfl) rfl
  writeSite site f s hs := by
    rcases writeSiteBody_cases site f s with h | ⟨-, -, h⟩
    · rwa [h]
    · exact hs.edited h
  clearSite site s hs := by
    rcases clearSiteBody_cases site s with h | ⟨-, h⟩
    · rwa [h]
    · exact hs.edited h
  writePins first count entries s hs _ := by
    rcases writePinsBody_cases first count entries s with h | ⟨-, -, h⟩
    · rwa [h]
    · exact hs.edited h
  setKeepout distance s hs := by
    unfold setKeepoutBody
    split
    · exact hs
    · split <;> exact hs.of_same (fun h => by cases h <;> rfl) rfl
  lockSites first count s hs := by
    obtain ⟨i, m, h, -⟩ := lockSitesBody_setLocks first count s
    rw [h]
    exact hs.of_same (fun h => by cases h <;> rfl) rfl
  unlockSites first count s hs := by
    obtain ⟨i, m, h⟩ := unlockSitesBody_setLocks first count s
    rw [h]
    exact hs.of_same (fun h => by cases h <;> rfl) rfl
  disposeSite site s hs := by
    unfold disposeSiteBody
    split
    · exact hs
    · split
      · exact hs.setSite _ _
      · exact hs
  writeProfile pinType holeClass count seatForce points s hs _ := by
    unfold writeProfileBody
    split
    · exact hs
    · split
      · exact hs
      · split
        · exact hs
        · exact hs.of_same (fun h => by cases h <;> rfl) rfl
  clearProfile pinType holeClass s hs := by
    unfold clearProfileBody
    split
    · exact hs
    · split
      · exact hs
      · exact hs.of_same (fun h => by cases h <;> rfl) rfl
  copyBank s hs := by
    unfold copyBankBody
    split
    · exact hs
    · exact hs.of_same (fun h => by cases h <;> rfl) rfl
  swapBanks s hs := by
    show WorkLaw (swapBanksState s)
    unfold swapBanksState
    split
    · exact hs
    · have hask : WorkLaw s.askSwap := hs.of_same (fun h => by cases h <;> rfl) rfl
      exact hask.trySwap
  setTool head laneCount toolCode lanes s hs _ := by
    unfold setToolBody
    split
    · exact hs
    · split
      · exact hs
      · split
        · exact hs
        · dsimp only
          exact hs.modHead_same _ _ rfl
  setHead head setting value s hs := by
    unfold setHeadBody
    split
    · split
      · exact hs.storeHead _ _ _
      · exact hs
    all_goals exact hs
  keepSettings value s hs := by
    unfold keepSettingsBody
    split
    · exact hs.of_same (fun h => by cases h <;> rfl) rfl
    · exact hs
  setLine head line value s hs := by
    unfold setLineBody
    split
    · exact hs
    · split
      · unfold setPermit
        split
        · exact hs
        · split
          · exact hs
          · split
            · exact hs
            · dsimp only
              exact hs.modLines _ _
      · split
        · unfold setMark
          split
          · exact hs
          · dsimp only
            exact hs.modLines _ _
        · exact hs
  claim site kind wait h s hs := by
    unfold claimBody
    split
    · exact hs
    · exact hs.grant h _ _
    · split
      · exact hs.setWaiting h _
      · exact hs
  release h s hs := by
    unfold releaseBody
    split
    · exact hs
    · split
      · exact hs.releaseSite h _ _
      · exact hs
      · exact ((hs.toIdle h).releaseSite h _ _).trySwap
      · exact hs
  cancelWait h s hs := by
    unfold cancelWaitBody
    split
    · exact hs.setWaiting h _
    · exact hs
  arm h s hs := by
    unfold armBody
    split
    · exact hs
    · split
      · exact hs
      · split
        · exact hs
        · split
          · exact hs
          · exact hs.setEngine h _ trivial
  start h s hs := by
    unfold startBody
    split
    · next job env he =>
      have harmed : env.stationCount.getD 0 ≤ 128 := by
        have := hs.engine h
        rwa [he] at this
      split
      · exact hs
      · split
        · exact hs
        · split
          · exact hs
          · exact ((hs.setEngine h _ (by exact startStroke_strokeLaw _ _ harmed)).setSite _ _).setSilence h _
    all_goals exact hs
  abort h s hs := by
    unfold abortBody
    split
    · exact hs
    · exact (hs.failComposition h _ _).trySwap
    · exact (hs.toIdle h).trySwap
    · next he =>
      split
      · exact hs.conclude h _ .aborted (hs.stroke he).context
      · exact hs
  resume h s hs := by
    unfold resumeBody
    split
    · next he =>
      split
      · exact hs
      · exact hs.returnFromHeld h _ _ (hs.stroke he)
    all_goals exact hs
  headClear h s hs := ((hs.clearEngine h).setWaiting h none).modLines h (fun l => { l with stop := false })
  armWatch slot site lane s hs := by
    unfold armWatchBody
    split
    · exact hs
    · split
      · exact hs
      · split
        · exact hs
        · exact hs.setSlot _ _
  disarmWatch slot s hs := by
    unfold disarmWatchBody
    split
    · exact hs
    · split
      · exact hs
      · exact hs.setSlot _ _
  frame h f s hs := by
    have hlink : WorkLaw (s.modHead h (fun u => { u with link := acceptedLink u f })) := hs.modHead_same h _ rfl
    exact hlink.deliver h f
  idle h s hs := hs.modHead_same h _ (by rfl)
  silence h s t hs ht := by
    have hstopped := hs.setSilence h none
    unfold execSilenceTimerExpiry at ht
    split at ht
    · split at ht
      · next he =>
        have hl := hs.stroke he
        split at ht <;> cases ht
        · exact hs.faultStroke h _ _ _ hl.context
        · exact hs.lateFault h _ _ hl
        · exact hstopped
      all_goals cases ht; exact hstopped
    · cases ht
      exact hs
  dwell h s t hs ht := by
    unfold execDwellTimerExpiry at ht
    split at ht
    · next he =>
      split at ht <;> cases ht
      · exact hs.conclude h _ _ (hs.stroke he).context
      · exact hs
    all_goals cases ht; exact hs
  pulse h s hs := hs.modHead_same h _ (by rfl)
  completion h s hs := by
    unfold State.completeComposition
    split
    · split
      · exact (hs.failComposition h _ _).trySwap
      · next hf => exact (hs.setEngine h (.armed _ _) (compose_stationCount_le hf)).postHead h _
    all_goals exact hs
  reevaluation h s w hs _ := by
    unfold State.reevaluate
    split
    · exact ((hs.setWaiting h none).grant h w.site _).postHead h _
    · exact (hs.setWaiting h none).postHead h _
    · exact hs.setWaiting h _
  interlock h level s hs := (hs.modLines h (fun l => { l with interlockHigh := level })).interlockMoved h _

/-- Settles O57. No meaning makes a stroke or a record that breaks the law: a frame adds no more excursions to a lane than
stations, and the verdict event records the counts of the stroke. -/
theorem workLawKept : Obligations.WorkLawKept := fun s t hs ht => keeps_workLaw.step s t hs ht

end Sys2Proof.Machine
end

section
/-! PROOF. How a claim is judged: the nine checks of R39 as one list, and check 9 by the distance of R44. -/

namespace Sys2Proof.Machine

/-! ## Check 9 (R44) -/

theorem State.conflict_comm (s : State) (i j : Nat) : s.conflict i j = s.conflict j i := by
  have hsep : ∀ a b : Nat, separation a b = separation b a := fun a b => Nat.add_comm _ _
  unfold State.conflict
  rw [hsep (s.site i).x, hsep (s.site i).y]
  simp only [ne_comm (a := i)]

theorem separation_lt_iff (a b d : Nat) : separation a b < d ↔ |(a : Int) - b| < d := by
  have : ((separation a b : Nat) : Int) = |(a : Int) - b| := by
    unfold separation
    rcases abs_cases ((a : Int) - b) with ⟨habs, _⟩ | ⟨habs, _⟩
    · rw [habs]; omega
    · rw [habs]; omega
  rw [← this]
  exact Nat.cast_lt.symm

/-- What check 9 makes of a claim that passes the eight before it. -/
def State.judgeKeepOut (s : State) (h : Head) (i : Nat) (k : Kind) : Judgement :=
  match (s.head (otherHead h)).claim with
  | some c => if s.conflict i c.site then .blocked c.site else .granted k
  | none => .granted k

theorem blocks_iff (s : State) (h : Head) (i j : Nat) :
    Blocks s h i j ↔ ∃ c, (s.head (otherHead h)).claim = some c ∧ c.site = j ∧ s.conflict i j = true := by
  unfold Blocks State.conflict
  simp only [decide_eq_true_eq, max_lt_iff, separation_lt_iff]
  constructor
  · rintro ⟨⟨c, hc, rfl⟩, h0, hne, hx, hy⟩
    exact ⟨c, hc, rfl, h0, hne, hx, hy⟩
  · rintro ⟨c, hc, rfl, h0, hne, hx, hy⟩
    exact ⟨⟨c, hc, rfl⟩, h0, hne, hx, hy⟩

theorem State.judgeKeepOut_blocked {s : State} {h : Head} {i j : Nat} (k : Kind) (hb : Blocks s h i j) :
    s.judgeKeepOut h i k = .blocked j := by
  obtain ⟨c, hc, rfl, hconflict⟩ := (blocks_iff s h i j).1 hb
  simp only [State.judgeKeepOut, hc, hconflict, if_true]

theorem State.judgeKeepOut_granted {s : State} {h : Head} {i : Nat} (k : Kind) (hb : ∀ j, ¬ Blocks s h i j) :
    s.judgeKeepOut h i k = .granted k := by
  cases hc : (s.head (otherHead h)).claim with
  | none => simp only [State.judgeKeepOut, hc]
  | some c =>
    have hfree : ¬ s.conflict i c.site = true := fun hx => hb c.site ((blocks_iff s h i _).2 ⟨c, hc, rfl, hx⟩)
    simp only [State.judgeKeepOut, hc, hfree]
    rfl

theorem State.judgeKeepOut_ne_refused (s : State) (h : Head) (i : Nat) (k : Kind) (st : Status) :
    s.judgeKeepOut h i k ≠ .refused st := by
  unfold State.judgeKeepOut
  split
  · split <;> exact fun hx => nomatch hx
  · exact fun hx => nomatch hx

/-! ## Checks 1 to 8 (R39) -/

theorem firstRefusal_eq_none {checks : List (Bool × Status)} :
    firstRefusal checks = none ↔ ∀ e ∈ checks, e.1 = false := by
  induction checks with
  | nil => simp [firstRefusal]
  | cons e rest ih =>
    obtain ⟨fails, st⟩ := e
    cases fails <;> simp [firstRefusal, ih]

/-- A code stands for a kind: 0 for PRESS, 1 for VERIFY, and any other for none. -/
def kindCoded (n : Nat) (k : Option Kind) : Prop :=
  n = 0 ∧ k = some .press ∨ n = 1 ∧ k = some .verify ∨ 1 < n ∧ k = none

/-- A code stands for a flag: 0 for false, 1 for true, and any other for none. -/
def flagCoded (n : Nat) (b : Option Bool) : Prop := n = 0 ∧ b = some false ∨ n = 1 ∧ b = some true ∨ 1 < n ∧ b = none

theorem kindOf_coded (b : Byte) : kindCoded b.toNat (kindOf b) := by
  unfold kindCoded kindOf
  split
  · simp_all
  · simp_all
  · exact .inr (.inr ⟨by have := b.isLt; simp_all; omega, rfl⟩)

theorem flagOf_coded (b : Byte) : flagCoded b.toNat (flagOf b) := by
  unfold flagCoded flagOf
  split
  · simp_all
  · simp_all
  · exact .inr (.inr ⟨by have := b.isLt; simp_all; omega, rfl⟩)

section
variable (s : State) (h : Head) (busy : Bool) (i : Nat)

/-- Check 7 names the state that the kind asks for. -/
theorem claimable_iff {n : Nat} {k : Kind} (hk : kindCoded n (some k)) (st : SiteState) :
    (n = 0 ∧ st ≠ .pending ∨ n = 1 ∧ st ≠ .seated) ↔ st ≠ claimableState k := by
  rcases hk with ⟨rfl, hk⟩ | ⟨rfl, hk⟩ | ⟨_, hk⟩
  · obtain rfl := Option.some.inj hk
    simp [claimableState, priorOf, priorSite]
  · obtain rfl := Option.some.inj hk
    simp [claimableState, priorOf, priorSite]
  · cases hk

/-- Checks 4 to 9 of a claim whose kind and wait flag are named. -/
theorem State.judgeSite_eq {n m : Nat} {k : Kind} (hk : kindCoded n (some k)) (hm : m ≤ 1) :
    s.judgeSite h i k =
      match firstRefusal ((claimChecks s h busy i n m).drop 3) with
      | some st => .refused st
      | none => s.judgeKeepOut h i k := by
  have hn : ¬ (1 < n) := by rcases hk with ⟨rfl, _⟩ | ⟨rfl, _⟩ | ⟨_, hk⟩ <;> simp_all
  have hm' : ¬ (1 < m) := Nat.not_lt.2 hm
  have hrange : (63 < i ∨ (s.site i).state = .unused ∨ 1 < n ∨ 1 < m) ↔
      (Config.siteCount ≤ i ∨ (s.site i).state = .unused) := by
    simp only [hn, hm', or_false]
    exact Iff.rfl
  have hstate := claimable_iff hk (s.site i).state
  simp only [claimChecks, List.drop_succ_cons, List.drop_zero, firstRefusal, hrange, hstate, decide_eq_true_eq,
    State.judgeSite]
  by_cases h1 : Config.siteCount ≤ i ∨ (s.site i).state = .unused
  · simp only [h1, if_true]
  · by_cases h2 : s.locked i = true
    · simp only [h1, h2, if_true, if_false]
    · by_cases h3 : (s.site i).holder = some (otherHead h)
      · simp only [h1, h2, h3, if_true, if_false]
        rfl
      · by_cases h4 : (s.site i).state ≠ claimableState k
        · simp only [h1, h2, h3, if_pos h4, if_false]
          rfl
        · by_cases h5 : (s.head h).tool.laneCount = 0 ∨ (s.site i).toolCode ≠ (s.head h).tool.toolCode
          · simp only [h1, h2, h3, if_neg h4, if_pos h5, if_false]
            rfl
          · simp only [h1, h2, h3, if_neg h4, if_neg h5, if_false]
            rfl

/-- The nine checks in their order: the first of checks 1 to 8 that fails answers, and else check 9 (R39). -/
theorem State.judgeClaim_eq {n m : Nat} {k : Option Kind} {w : Option Bool} : kindCoded n k → flagCoded m w →
    s.judgeClaim h busy i k w =
      match firstRefusal (claimChecks s h busy i n m) with
      | some st => .refused st
      | none => (k.map (s.judgeKeepOut h i)).getD (.refused .range) := by
  intro hk hw
  have hfirst : firstRefusal (claimChecks s h busy i n m) =
      if s.map.mode = .edit then some .mapState
      else if (s.head h).lines.stop = true then some .stopped
      else if busy = true then some .holdsClaim
      else firstRefusal ((claimChecks s h busy i n m).drop 3) := by
    simp only [claimChecks, firstRefusal, List.drop_succ_cons, List.drop_zero, decide_eq_true_eq]
  have hrange : 1 < n ∨ 1 < m → firstRefusal ((claimChecks s h busy i n m).drop 3) = some .range := fun hx => by
    have : 63 < i ∨ (s.site i).state = .unused ∨ 1 < n ∨ 1 < m := .inr (.inr hx)
    simp [claimChecks, firstRefusal, this]
  rw [hfirst]
  unfold State.judgeClaim
  by_cases h1 : s.map.mode = .edit
  · simp only [h1, if_true]
  by_cases h2 : stopLevel (s.head h) = true
  · have h2' : (s.head h).lines.stop = true := h2
    simp only [h1, h2, h2', if_true, if_false]
  have h2' : ¬ (s.head h).lines.stop = true := h2
  cases busy with
  | true => simp only [h1, h2, h2', if_true, if_false, Bool.false_eq_true]
  | false =>
    simp only [h1, h2, h2', if_false, Bool.false_eq_true]
    cases k with
    | none =>
      have hn : 1 < n := by rcases hk with ⟨_, hk⟩ | ⟨_, hk⟩ | ⟨hn, _⟩ <;> first | exact hn | cases hk
      simp only [hrange (.inl hn)]
    | some kind =>
      cases w with
      | none =>
        have hm : 1 < m := by rcases hw with ⟨_, hw⟩ | ⟨_, hw⟩ | ⟨hm, _⟩ <;> first | exact hm | cases hw
        simp only [hrange (.inr hm)]
      | some b =>
        have hm : m ≤ 1 := by rcases hw with ⟨rfl, _⟩ | ⟨rfl, _⟩ | ⟨_, hw⟩ <;> first | omega | cases hw
        simp only [s.judgeSite_eq h false i hk hm]
        split <;> rfl

/-- A claim that passes checks 1 to 8 names a kind. -/
theorem kind_of_firstRefusal {n m : Nat} {k : Option Kind} (hk : kindCoded n k)
    (hnone : firstRefusal (claimChecks s h busy i n m) = none) : ∃ kind, k = some kind := by
  have hall := firstRefusal_eq_none.1 hnone
  simp only [claimChecks, List.forall_mem_cons, decide_eq_false_iff_not, not_or] at hall
  obtain ⟨-, -, -, ⟨-, -, hn, -⟩, -⟩ := hall
  rcases hk with ⟨_, hk⟩ | ⟨_, hk⟩ | ⟨h1, _⟩
  · exact ⟨_, hk⟩
  · exact ⟨_, hk⟩
  · exact absurd h1 hn

end

/-- What a claim that passes checks 1 to 8 has found. -/
structure Passed (s : State) (h : Head) (busy : Bool) (i : Nat) (k : Kind) : Prop where
  mode : s.map.mode = .active
  running : (s.head h).lines.stop = false
  free : busy = false
  inTable : i < 64
  unlocked : s.locked i = false
  notTaken : (s.site i).holder ≠ some (otherHead h)
  state : (s.site i).state = claimableState k

theorem passed_of_firstRefusal {s : State} {h : Head} {busy : Bool} {i n m : Nat} {k : Kind} (hk : kindCoded n (some k))
    (hnone : firstRefusal (claimChecks s h busy i n m) = none) : Passed s h busy i k := by
  have hall := firstRefusal_eq_none.1 hnone
  simp only [claimChecks, List.forall_mem_cons, decide_eq_false_iff_not, not_or, claimable_iff hk] at hall
  obtain ⟨hmode, hstop, hbusy, ⟨hi, -⟩, hlock, hholder, hstate, -⟩ := hall
  refine ⟨?_, hstop, hbusy, by omega, hlock, hholder, not_not.1 hstate⟩
  cases hm : s.map.mode
  · exact absurd hm hmode
  · rfl

/-- What a claim that is not refused has found, and whether a site blocks it. -/
theorem State.judgeClaim_cases (s : State) (h : Head) (busy : Bool) (i : Nat) (k : Option Kind) (w : Option Bool)
    (hk : ∃ n, kindCoded n k) (hw : ∃ m, flagCoded m w) :
    (∃ st, s.judgeClaim h busy i k w = .refused st) ∨
    ∃ kind, k = some kind ∧ Passed s h busy i kind ∧
      ((∃ j, Blocks s h i j ∧ s.judgeClaim h busy i k w = .blocked j) ∨
        (∀ j, ¬ Blocks s h i j) ∧ s.judgeClaim h busy i k w = .granted kind) := by
  obtain ⟨n, hk⟩ := hk
  obtain ⟨m, hw⟩ := hw
  rw [s.judgeClaim_eq h busy i hk hw]
  cases hf : firstRefusal (claimChecks s h busy i n m) with
  | some st => exact .inl ⟨st, rfl⟩
  | none =>
    obtain ⟨kind, rfl⟩ := kind_of_firstRefusal s h busy i hk hf
    refine .inr ⟨kind, rfl, passed_of_firstRefusal hk hf, ?_⟩
    by_cases hb : ∃ j, Blocks s h i j
    · obtain ⟨j, hj⟩ := hb
      exact .inl ⟨j, hj, State.judgeKeepOut_blocked kind hj⟩
    · rw [not_exists] at hb
      exact .inr ⟨hb, State.judgeKeepOut_granted kind hb⟩

end Sys2Proof.Machine
end

section
/-! PROOF. CLAIM and the re-evaluation of a waiting claim (R39, R45 to R47, R50). -/

namespace Sys2Proof.Machine

/-! ## What a claim is judged on -/

theorem State.judgeClaim_beginTransaction (s : State) (p : Port) (h : Head) (busy : Bool) (i : Nat) (k : Option Kind)
    (w : Option Bool) : (s.beginTransaction p).judgeClaim h busy i k w = s.judgeClaim h busy i k w := by
  cases p <;> rfl

theorem State.grant_beginTransaction (s : State) (p : Port) (h : Head) (i : Nat) (k : Kind) :
    (s.beginTransaction p).grant h i k = (s.grant h i k).beginTransaction p := by
  cases h <;> cases p <;> rfl

theorem State.setWaiting_beginTransaction (s : State) (p : Port) (h : Head) (w : Option Wait) :
    (s.beginTransaction p).setWaiting h w = (s.setWaiting h w).beginTransaction p :=
  State.modHead_beginTransaction s h _ p

section
variable {s : State} {h : Head} {busy : Bool} {i n m : Nat} {k : Option Kind} {w : Option Bool}
  (hk : kindCoded n k) (hw : flagCoded m w)
include hk hw

theorem State.judgeClaim_refused {st : Status} (hst : firstRefusal (claimChecks s h busy i n m) = some st) :
    s.judgeClaim h busy i k w = .refused st := by
  rw [s.judgeClaim_eq h busy i hk hw, hst]

theorem State.judgeClaim_granted {kind : Kind} (hkind : k = some kind)
    (hnone : firstRefusal (claimChecks s h busy i n m) = none) (hfree : ∀ j, ¬ Blocks s h i j) :
    s.judgeClaim h busy i k w = .granted kind := by
  rw [s.judgeClaim_eq h busy i hk hw, hnone, hkind]
  exact State.judgeKeepOut_granted kind hfree

theorem State.judgeClaim_blocked {j : Nat} (hnone : firstRefusal (claimChecks s h busy i n m) = none)
    (hblock : Blocks s h i j) : s.judgeClaim h busy i k w = .blocked j := by
  obtain ⟨kind, rfl⟩ := kind_of_firstRefusal s h busy i hk hnone
  rw [s.judgeClaim_eq h busy i hk hw, hnone]
  exact State.judgeKeepOut_blocked kind hblock

end

/-! ## A grant (R46) -/

theorem State.grant_frame (s : State) (h : Head) (i : Nat) (k : Kind) :
    s.grant h i k =
      { s with map := { s.map with sites := (s.grant h i k).map.sites } }.modHead h (fun u =>
        { u with claim := some { site := i, kind := k } }) := by
  cases h <;> rfl

theorem State.grant_site (s : State) (h : Head) (i : Nat) (k : Kind) (j : Nat) :
    (s.grant h i k).site j =
      if j = i then { s.site i with state := .claimed, holder := some h, prior := some (priorOf k) } else s.site j := by
  rw [State.grant, State.setClaim_site, State.setSite_site]

theorem siteGranted_of_site {s t : State} {h : Head} {i : Nat} {k : Kind} (ht : ∀ j, t.site j = (s.grant h i k).site j) :
    SiteGranted s h i k t where
  site := by rw [ht, State.grant_site, if_pos rfl]; cases k <;> rfl
  others j hj := by rw [ht, State.grant_site, if_neg hj]

/-! ## CLAIM -/

theorem exec_claim_taken (s t : State) (h : Head) (site kind wait : Byte) (status : Status) (payload : List Byte)
    (hf : portFree (s.port (headPort h)))
    (hb : claimBody site kind wait h (s.beginTransaction (headPort h)) =
      (t.beginTransaction (headPort h), status, payload)) :
    exec (.claim (headPort h) site kind wait) s = .next (t.withReply (headPort h) 0x30 status payload) :=
  congrArg Host.Outcome.next
    (receive_onHead_eq_withReply (.claim (headPort h) site kind wait) h (claimBody site kind wait) s t status payload hf
      (by simp [frameLength, fieldBytes]) (by cases h <;> rfl) rfl hb)

section
variable {s : State} {h : Head} {site kind wait : Byte}

theorem claimBody_refused {st : Status}
    (hj : s.judgeClaim h ((s.head h).claim.isSome || (s.head h).waiting.isSome) site.toNat (kindOf kind) (flagOf wait) =
      .refused st) : claimBody site kind wait h s = (s, st, [site]) := by
  rw [claimBody, hj]

theorem claimBody_granted {k : Kind}
    (hj : s.judgeClaim h ((s.head h).claim.isSome || (s.head h).waiting.isSome) site.toNat (kindOf kind) (flagOf wait) =
      .granted k) : claimBody site kind wait h s = (s.grant h site.toNat k, .ok, [site, kind]) := by
  rw [claimBody, hj]

theorem claimBody_conflict {j : Nat} (hw : wait = 0)
    (hj : s.judgeClaim h ((s.head h).claim.isSome || (s.head h).waiting.isSome) site.toNat (kindOf kind) (flagOf wait) =
      .blocked j) : claimBody site kind wait h s = (s, .conflict, [site] ++ u8 j) := by
  subst hw
  rw [claimBody, hj]
  cases kindOf kind <;> rfl

theorem claimBody_waiting {j : Nat} {k : Kind} (hk : kindOf kind = some k) (hw : wait = 1)
    (hj : s.judgeClaim h ((s.head h).claim.isSome || (s.head h).waiting.isSome) site.toNat (kindOf kind) (flagOf wait) =
      .blocked j) :
    claimBody site kind wait h s =
      (s.setWaiting h (some { site := site.toNat, kind := k, blocking := j, due := false }), .waiting,
        [site] ++ u8 j) := by
  subst hw
  rw [claimBody, hj, hk]
  rfl

end

/-- A judgement is the same before the request's frame has arrived as after it. -/
theorem State.judgeClaim_begun {s : State} {h : Head} {p : Port} {i : Nat} {k : Option Kind} {w : Option Bool}
    {j : Judgement} (hj : s.judgeClaim h ((s.head h).claim.isSome || (s.head h).waiting.isSome) i k w = j) :
    (s.beginTransaction p).judgeClaim h
      (((s.beginTransaction p).head h).claim.isSome || ((s.beginTransaction p).head h).waiting.isSome) i k w = j := by
  rw [State.judgeClaim_beginTransaction, State.beginTransaction_head, hj]

/-- Settles O33: the first of checks 1 to 8 that fails answers, and else the blocking site, by the wait field. -/
theorem claimRefusedInOrder : Obligations.ClaimRefusedInOrder := by
  intro s h site kind wait checks hf hchecks
  subst hchecks
  refine ⟨fun st hst => ?_, fun j hnone hblock => ?_⟩
  · have hj := State.judgeClaim_refused (kindOf_coded kind) (flagOf_coded wait) hst
    exact exec_claim_taken s s h site kind wait _ _ hf (claimBody_refused (State.judgeClaim_begun hj))
  · have hj := State.judgeClaim_begun (p := headPort h)
      (State.judgeClaim_blocked (kindOf_coded kind) (flagOf_coded wait) hnone hblock)
    refine ⟨fun hw => ?_, fun hw => ?_⟩
    · exact exec_claim_taken s s h site kind wait _ _ hf (claimBody_conflict hw hj)
    · obtain ⟨k, hk⟩ := kind_of_firstRefusal s h _ _ (kindOf_coded kind) hnone
      have hbody := claimBody_waiting hk hw hj
      rw [State.setWaiting_beginTransaction] at hbody
      have hkind : k = if kind = 0 then Kind.press else Kind.verify := by
        rcases kindOf_coded kind with ⟨hn, hk'⟩ | ⟨hn, hk'⟩ | ⟨_, hk'⟩
        · rw [if_pos (BitVec.eq_of_toNat_eq hn)]
          exact Option.some.inj (hk.symm.trans hk')
        · rw [if_neg (fun h0 => by simp [h0] at hn)]
          exact Option.some.inj (hk.symm.trans hk')
        · exact nomatch hk.symm.trans hk'
      rw [hkind] at hbody
      exact exec_claim_taken s _ h site kind wait _ _ hf hbody

/-! ## Re-evaluation -/

theorem exec_reevaluation_due {s : State} {h : Head} {w : Wait} (hw : (s.head h).waiting = some w) (hdue : w.due = true) :
    exec (.reevaluation h) s = .next (s.reevaluate h w) := by
  simp only [exec, execReevaluation, hw, hdue, if_true]

theorem exec_reevaluation_not_due {s : State} {h : Head}
    (hw : (s.head h).waiting = none ∨ ∃ w, (s.head h).waiting = some w ∧ w.due = false) :
    exec (.reevaluation h) s = .next s := by
  rcases hw with hw | ⟨w, hw, hdue⟩
  · simp only [exec, execReevaluation, hw]
  · simp only [exec, execReevaluation, hw, hdue, Bool.false_eq_true, if_false]

theorem State.setWaiting_none_grant (s : State) (h : Head) (i : Nat) (k : Kind) :
    (s.setWaiting h none).grant h i k =
      { s with map := { s.map with sites := (s.grant h i k).map.sites } }.modHead h (fun u =>
        { u with waiting := none, claim := some { site := i, kind := k } }) := by
  cases h <;> rfl

/-- Settles O34: a due wait is judged as a CLAIM with the wait field set, of which the claim record alone is check 3. -/
theorem reevaluationOutcomes : Obligations.ReevaluationOutcomes := by
  intro s h
  refine ⟨exec_reevaluation_not_due, fun w checks hw hdue hchecks => ?_⟩
  subst hchecks
  have hk : kindCoded (match w.kind with | .press => 0 | .verify => 1) (some w.kind) := by
    cases w.kind
    · exact .inl ⟨rfl, rfl⟩
    · exact .inr (.inl ⟨rfl, rfl⟩)
  have hflag : flagCoded 1 (some true) := .inr (.inl ⟨rfl, rfl⟩)
  rw [exec_reevaluation_due hw hdue]
  refine ⟨fun st hst => ?_, fun j hnone hblock => ?_, fun hnone hfree => ?_⟩
  · rw [State.reevaluate, State.judgeClaim_refused hk hflag hst]
    rfl
  · rw [State.reevaluate, State.judgeClaim_blocked hk hflag hnone hblock]
    rfl
  · have ht : s.reevaluate h w = ((s.setWaiting h none).grant h w.site w.kind).postHead h (claimGranted h w.site) := by
      rw [State.reevaluate, State.judgeClaim_granted hk hflag rfl hnone hfree]
    refine ⟨_, congrArg _ ht, ?_, siteGranted_of_site fun j => ?_⟩
    · rw [State.postHead_map, State.setWaiting_none_grant, State.modHead_map]
      rfl
    · simp only [State.postHead_site, State.grant_site, State.setWaiting_site]

end Sys2Proof.Machine

namespace Sys2Proof
open Machine

/-- Settles O32: the nine checks are the list of checks 1 to 8 and the absence of a blocking site. -/
theorem claimGranted : Obligations.ClaimGranted := by
  intro s h site kind wait k hf hkind hnone hfree
  have hk : kindOf kind = some k := by rcases hkind with ⟨rfl, rfl⟩ | ⟨rfl, rfl⟩ <;> rfl
  have hj := State.judgeClaim_granted (kindOf_coded kind) (flagOf_coded wait) hk hnone hfree
  have hbody := claimBody_granted (State.judgeClaim_begun (p := headPort h) hj)
  rw [State.grant_beginTransaction] at hbody
  refine ⟨_, exec_claim_taken s _ h site kind wait _ _ hf hbody, ?_, siteGranted_of_site fun j => ?_⟩
  · rw [State.withReply_map, ← State.grant_frame]
  · rw [State.withReply_site]

end Sys2Proof
end

section
/-! PROOF. The requests of one short answer: the queue's front, SET_KEEPOUT, KEEP_SETTINGS, MAP_EDIT, SET_BLOCK,
END_TRANSFER and HEAD_STATUS. -/

namespace Sys2Proof.Machine

/-- Settles O1: the two sides are one term, for `step` takes the queue apart. -/
theorem queueFrontRuns : Obligations.QueueFrontRuns := fun _ _ _ => rfl

/-! ## SET_KEEPOUT (R10) -/

/-- The state with a keep-out distance stored. -/
def State.withKeepOut (s : State) (d : Nat) : State := { s with map := { s.map with keepOut := d } }

theorem State.withKeepOut_beginTransaction (s : State) (p : Port) (d : Nat) :
    (s.beginTransaction p).withKeepOut d = (s.withKeepOut d).beginTransaction p := by cases p <;> rfl

theorem exec_setKeepout_taken (s t : State) (d : Half) (status : Status) (payload : List Byte) (hf : portFree s.cell)
    (hb : setKeepoutBody d (s.beginTransaction .cell) = (t.beginTransaction .cell, status, payload)) :
    exec (.setKeepout .cell d) s = .next (t.withReply .cell 0x15 status payload) :=
  congrArg Host.Outcome.next
    (receive_eq_withReply (.setKeepout .cell d) .cell _ s t status payload hf
      (by simp [frameLength, fieldBytes, le16]) rfl rfl hb)

section
variable {s : State} {d : Half}

theorem setKeepoutBody_active (hm : s.map.mode = .active) : setKeepoutBody d s = (s, .mapState, []) := if_pos hm

theorem setKeepoutBody_stored (hm : s.map.mode ≠ .active) (hd : d.toNat ≤ 20000) :
    setKeepoutBody d s = (s.withKeepOut d.toNat, .ok, []) := by
  rw [setKeepoutBody, if_neg hm, if_neg (show ¬ keepOutLimit < d.toNat from Nat.not_lt.2 hd)]
  rfl

theorem setKeepoutBody_clamped (hm : s.map.mode ≠ .active) (hd : ¬ d.toNat ≤ 20000) :
    setKeepoutBody d s = (s.withKeepOut 20000, .okClamped, [0x20, 0x4E]) := by
  rw [setKeepoutBody, if_neg hm, if_pos (show keepOutLimit < d.toNat from Nat.not_le.1 hd)]
  rfl

end

/-- Settles O19, by the map mode and by whether the distance is within its limit. -/
theorem keepoutStored : Obligations.KeepoutStored := by
  intro s d hf
  by_cases hm : s.map.mode = .active
  · rw [if_pos hm]
    exact exec_setKeepout_taken s s d _ _ hf (setKeepoutBody_active (by simpa using hm))
  rw [if_neg hm]
  have hm' : (s.beginTransaction .cell).map.mode ≠ .active := by simpa using hm
  by_cases hd : d.toNat ≤ 20000
  · rw [if_pos hd]
    have hbody := setKeepoutBody_stored hm' hd
    rw [State.withKeepOut_beginTransaction] at hbody
    exact exec_setKeepout_taken s _ d _ _ hf hbody
  · rw [if_neg hd]
    have hbody := setKeepoutBody_clamped hm' hd
    rw [State.withKeepOut_beginTransaction] at hbody
    exact exec_setKeepout_taken s _ d _ _ hf hbody

/-! ## KEEP_SETTINGS (R33) -/

theorem exec_keepSettings_taken (s t : State) (v : Byte) (status : Status) (payload : List Byte) (hf : portFree s.cell)
    (hb : keepSettingsBody v (s.beginTransaction .cell) = (t.beginTransaction .cell, status, payload)) :
    exec (.keepSettings .cell v) s = .next (t.withReply .cell 0x2A status payload) :=
  congrArg Host.Outcome.next
    (receive_eq_withReply (.keepSettings .cell v) .cell _ s t status payload hf
      (by simp [frameLength, fieldBytes]) rfl rfl hb)

theorem flagOf_eq_none {b : Byte} (h0 : b ≠ 0) (h1 : b ≠ 1) : flagOf b = none := by
  rcases flagOf_coded b with ⟨hb, _⟩ | ⟨hb, _⟩ | ⟨_, hb⟩
  · exact absurd (BitVec.eq_of_toNat_eq hb) h0
  · exact absurd (BitVec.eq_of_toNat_eq hb) h1
  · exact hb

/-- Settles O30, by the two values that the flag has. -/
theorem keepFlagStored : Obligations.KeepFlagStored := by
  intro s v hf
  by_cases h1 : v = 1
  · subst h1
    exact exec_keepSettings_taken s { s with keep := true } 1 _ _ hf rfl
  by_cases h0 : v = 0
  · subst h0
    exact exec_keepSettings_taken s { s with keep := false } 0 _ _ hf rfl
  rw [if_neg h1, if_neg h0]
  exact exec_keepSettings_taken s s v _ _ hf (by rw [keepSettingsBody, flagOf_eq_none h0 h1])

/-! ## MAP_EDIT (R14) -/

/-- The state with a map mode. -/
def State.withMode (s : State) (m : MapMode) : State := { s with map := { s.map with mode := m } }

theorem State.withMode_beginTransaction (s : State) (p : Port) (m : MapMode) :
    (s.beginTransaction p).withMode m = (s.withMode m).beginTransaction p := by cases p <;> rfl

theorem exec_mapEdit_taken (s t : State) (status : Status) (payload : List Byte) (hf : portFree s.cell)
    (hb : mapEditBody (s.beginTransaction .cell) = (t.beginTransaction .cell, status, payload)) :
    exec (.mapEdit .cell) s = .next (t.withReply .cell 0x10 status payload) :=
  congrArg Host.Outcome.next
    (receive_eq_withReply (.mapEdit .cell) .cell _ s t status payload hf
      (by simp [frameLength, fieldBytes]) rfl rfl hb)

theorem State.mapInUse_beginTransaction (s : State) (p : Port) : (s.beginTransaction p).mapInUse = s.mapInUse := by
  cases p <;> rfl

theorem State.anyHeld_iff (s : State) :
    s.anyHeld = true ↔ ∃ i, i < 64 ∧ ((s.site i).state = .claimed ∨ (s.site i).state = .pressing) := by
  simp only [State.anyHeld, List.any_eq_true, List.mem_range, siteHeld_iff]
  exact Iff.rfl

theorem State.bothIdle_iff (s : State) : s.bothIdle = true ↔ s.headA.engine = .idle ∧ s.headB.engine = .idle := by
  rw [State.bothIdle, Bool.and_eq_true, engineIdle_iff, engineIdle_iff]

/-- The map is in use by a held site, by a waiting claim or by an engine at work (R14). -/
theorem State.mapInUse_iff (s : State) :
    s.mapInUse = true ↔
      (∃ i, i < 64 ∧ ((s.site i).state = .claimed ∨ (s.site i).state = .pressing)) ∨ s.headA.waiting ≠ none ∨
        s.headB.waiting ≠ none ∨ s.headA.engine ≠ .idle ∨ s.headB.engine ≠ .idle := by
  rw [State.mapInUse, Bool.or_eq_true, Bool.or_eq_true, Bool.or_eq_true, State.anyHeld_iff, Option.isSome_iff_ne_none,
    Option.isSome_iff_ne_none, Bool.not_eq_true', Bool.eq_false_iff]
  simp only [ne_eq, s.bothIdle_iff, not_and_or, or_assoc]

section
variable {s : State}

theorem mapEditBody_edit (hm : s.map.mode = .edit) : mapEditBody s = (s, .ok, []) := if_pos hm

theorem mapEditBody_inUse (hm : s.map.mode = .active) (hu : s.mapInUse = true) :
    mapEditBody s = (s, .mapInUse, []) := by
  rw [mapEditBody, if_neg (by simp [hm]), if_pos hu]

theorem mapEditBody_taken (hm : s.map.mode = .active) (hu : ¬ s.mapInUse = true) :
    mapEditBody s = (s.withMode .edit, .ok, []) := by
  rw [mapEditBody, if_neg (by simp [hm]), if_neg hu]
  rfl

end

/-- Settles O21, by the map mode and by whether the map is in use. -/
theorem mapEditReturns : Obligations.MapEditReturns := by
  intro s hf
  have hmap : (s.beginTransaction .cell).map = s.map := State.beginTransaction_map s _
  have huse : (s.beginTransaction .cell).mapInUse = s.mapInUse := s.mapInUse_beginTransaction _
  refine ⟨fun hm => ?_, fun hm => ⟨fun hfree => ?_, fun hused => ?_⟩⟩
  · exact exec_mapEdit_taken s s _ _ hf (mapEditBody_edit (hmap ▸ hm))
  · obtain ⟨hsites, hwA, hwB, heA, heB⟩ := hfree
    have hu : ¬ s.mapInUse = true := by
      rw [State.mapInUse_iff]
      rintro (⟨i, hi, hst | hst⟩ | h | h | h | h)
      · exact (hsites i hi).1 hst
      · exact (hsites i hi).2 hst
      · exact h hwA
      · exact h hwB
      · exact h heA
      · exact h heB
    have hbody := mapEditBody_taken (s := s.beginTransaction .cell) (hmap ▸ hm) (huse ▸ hu)
    rw [State.withMode_beginTransaction] at hbody
    exact exec_mapEdit_taken s _ _ _ hf hbody
  · exact exec_mapEdit_taken s s _ _ hf (mapEditBody_inUse (hmap ▸ hm) (huse ▸ s.mapInUse_iff.2 hused))

/-! ## SET_BLOCK and END_TRANSFER (R178, R179) -/

theorem exec_setBlock_taken (s t : State) (size : Byte) (status : Status) (payload : List Byte) (hf : portFree s.cell)
    (hb : setBlockBody size (s.beginTransaction .cell) = (t.beginTransaction .cell, status, payload)) :
    exec (.setBlock .cell size) s = .next (t.withReply .cell 0x06 status payload) :=
  congrArg Host.Outcome.next
    (receive_eq_withReply (.setBlock .cell size) .cell _ s t status payload hf
      (by simp [frameLength, fieldBytes]) rfl rfl hb)

theorem blockSize_iff (size : Byte) :
    (size.toNat = 4 ∨ size.toNat = 8 ∨ size.toNat = 16 ∨ size.toNat = 32) ↔
      (size = 4 ∨ size = 8 ∨ size = 16 ∨ size = 32) := by
  have h : ∀ n : Byte, size.toNat = n.toNat ↔ size = n := fun n => BitVec.toNat_inj
  exact or_congr (h 4) (or_congr (h 8) (or_congr (h 16) (h 32)))

theorem exec_endTransfer_free {s : State} (hf : portFree s.cell) :
    exec (.endTransfer .cell) s = .next (s.withReply .cell 0x07 .refusedState []) := by
  have hexec : exec (.endTransfer .cell) s =
      .next (receive (.endTransfer .cell) .cell (fun t => (t, .refusedState, [])) s) := by
    simp only [exec, execEndTransfer, hf.2]
  rw [hexec, receive_eq_withReply (.endTransfer .cell) .cell _ s s _ _ hf (by simp [frameLength, fieldBytes]) rfl rfl rfl]
  rfl

theorem exec_endTransfer_open {s : State} {t : Transfer} (ht : s.cell.transfer = some t) :
    exec (.endTransfer .cell) s = .next
      ({ s with cell := { s.cell with transfer := none } }.withReply .cell 0x07 .ok
        ([transferCode t.kind] ++ u16 (transferPosition t.kind t.before))) := by
  simp only [exec, execEndTransfer, ht]
  rfl

/-- Settles O11, by the block sizes of R178, and for END_TRANSFER by whether a transfer is open. -/
theorem transferControls : Obligations.TransferControls := by
  intro s
  refine ⟨fun size hf => ?_, fun t ht => ?_, exec_endTransfer_free⟩
  · by_cases hs : size = 4 ∨ size = 8 ∨ size = 16 ∨ size = 32
    · rw [if_pos hs]
      exact exec_setBlock_taken s _ size _ _ hf (if_pos ((blockSize_iff size).2 hs))
    · rw [if_neg hs]
      exact exec_setBlock_taken s s size _ _ hf (if_neg (mt (blockSize_iff size).1 hs))
  · rw [exec_endTransfer_open ht]
    cases t.kind <;> rfl

/-! ## HEAD_STATUS (R181) -/

theorem onNamedHead_reaches {p : Port} {field : Option Byte} {h : Head} (hr : reaches p field h)
    (body : Head → State → Answer) (s : State) : onNamedHead p field body s = body h s := by
  rcases hr with ⟨rfl, rfl⟩ | ⟨rfl, rfl⟩
  · cases h <;> rfl
  · cases h <;> rfl

theorem onNamedHead_none {b : Byte} (hb : 1 < b.toNat) (body : Head → State → Answer) (s : State) :
    onNamedHead .cell (some b) body s = (s, .range, []) := by
  simp only [onNamedHead, requestHead, portHead, Option.bind_some, headOf_eq_none hb]

theorem lengthAgrees_of_reaches {p : Port} {field : Option Byte} {h : Head} (hr : reaches p field h) :
    (field.isSome == (p == .cell)) = true := by
  rcases hr with ⟨rfl, rfl⟩ | ⟨rfl, rfl⟩
  · cases h <;> rfl
  · rfl

theorem frameLength_headField (field : Option Byte) : 4 + field.toList.length ≤ 256 := by
  cases field <;> simp

/-- A request with a head field that reaches a head, taken by that head's body on a free port. -/
theorem receive_named_eq_withReply (i : Instr) {p : Port} {field : Option Byte} {h : Head}
    (body : Head → State → Answer) (s t : State) (status : Status) (payload : List Byte) (hf : portFree (s.port p))
    (hr : reaches p field h) (hfield : fieldBytes i = field.toList) (hc : codeListed p (requestCode i) = true)
    (ha : lengthAgrees p i = (field.isSome == (p == .cell)))
    (hb : body h (s.beginTransaction p) = (t.beginTransaction p, status, payload)) :
    receive i p (onNamedHead p field body) s = t.withReply p (requestCode i) status payload :=
  receive_eq_withReply i p _ s t status payload hf (by rw [frameLength, hfield]; exact frameLength_headField field) hc
    (ha.trans (lengthAgrees_of_reaches hr)) ((onNamedHead_reaches hr body _).trans hb)

/-- A head field on the Cell Port that names no head is refused RANGE (R177). -/
theorem receive_named_range (i : Instr) {b : Byte} (body : Head → State → Answer) (s : State) (hf : portFree s.cell)
    (hb : 1 < b.toNat) (hfield : fieldBytes i = [b]) (hc : codeListed .cell (requestCode i) = true)
    (ha : lengthAgrees .cell i = true) :
    receive i .cell (onNamedHead .cell (some b) body) s = s.withReply .cell (requestCode i) .range [] :=
  receive_eq_withReply i .cell _ s s .range [] hf (by rw [frameLength, hfield]; simp) hc ha (onNamedHead_none hb body _)

theorem codeListed_of_reaches {p : Port} {field : Option Byte} {h : Head} (hr : reaches p field h) {code : Byte}
    (hcell : cellCodes.contains code = true) (hhead : headCodes.contains code = true) : codeListed p code = true := by
  rcases hr with ⟨rfl, rfl⟩ | ⟨rfl, rfl⟩
  · cases h <;> exact hhead
  · exact hcell

theorem bits8_four (a b c d : Bool) :
    bits8 [a, b, c, d] =
      u8 ((if a then 1 else 0) + (if b then 2 else 0) + (if c then 4 else 0) + (if d then 8 else 0)) := by
  cases a <;> cases b <;> cases c <;> cases d <;> rfl

theorem flag8_eq (b : Bool) : flag8 b = [if b then 1 else 0] := by cases b <;> rfl

theorem lastFrameBytes_eq (f : Option Sample) :
    lastFrameBytes f =
      match f with
      | none => [0, 0, 0, 0, 0, 0, 0, 0, 0]
      | some c =>
        [1] ++ i32 c.displacement ++ [if c.encoderFault then 1 else 0] ++ le16 c.saturation ++ u8 c.laneCount ++
          c.raws.flatMap i16 := by
  cases f with
  | none => rfl
  | some c => simp only [lastFrameBytes, flag8_eq, if_true]

/-- Settles O13: the request reaches its head, and its payload is `headStatusBytes`, field by field. -/
theorem headStatusReports : Obligations.HeadStatusReports := by
  intro s
  refine ⟨fun h p field u hf hu hreach => ?_, fun field hf hb => ?_⟩
  · subst hu
    have hr : reaches p field h := by
      rcases hreach with hr | ⟨hp, hfield⟩
      · exact .inl hr
      · exact .inr ⟨hp, by rw [hfield]; cases h <;> rfl⟩
    have hbody : headStatusBody h (s.beginTransaction p) =
        (s.beginTransaction p, .ok, headStatusBytes h (s.head h)) := by
      rw [headStatusBody, State.beginTransaction_head]
    have htaken := receive_named_eq_withReply (.headStatus p field) headStatusBody s s _ _ hf hr rfl
      (codeListed_of_reaches hr rfl rfl) rfl hbody
    refine (congrArg Host.Outcome.next htaken).trans ?_
    rw [headStatusBytes, bits8_four, flag8_eq, lastFrameBytes_eq]
    rfl
  · exact congrArg Host.Outcome.next (receive_named_range (.headStatus .cell (some field)) _ s hf hb rfl rfl rfl)

end Sys2Proof.Machine
end

section
/-! PROOF. The passing of a microsecond (log entry 6). -/

namespace Sys2Proof.Machine

theorem step_idle {s : State} (hp : s.pending = []) : step s = .next (tick s) := by
  unfold step
  rw [hp]

theorem tick_head (s : State) (h : Head) : (tick s).head h = tickHead (s.head h) := by cases h <;> rfl

/-- Out of DWELL nothing of an engine runs. -/
theorem tickEngine_of_not_dwell {e : Engine} (he : engineState e ≠ .dwell) : tickEngine e = e := by
  cases e with
  | idle => rfl
  | composing job => rfl
  | armed job env => rfl
  | stroke ph job env ctx =>
    cases ph with
    | dwell => exact absurd rfl he
    | approach => rfl
    | engage => rfl
    | held ret => rfl
    | retract => rfl
    | faulted => rfl

theorem ranOut_iff (t : Option Nat) : ranOut t = true ↔ t = some 0 := by cases t <;> simp [ranOut]

theorem dwellRanOut_iff (e : Engine) :
    dwellRanOut e = true ↔ ∃ job env ctx, e = .stroke .dwell job env ctx ∧ ctx.remainingDwell = 0 := by
  cases e with
  | idle => simp [dwellRanOut]
  | composing job => simp [dwellRanOut]
  | armed job env => simp [dwellRanOut]
  | stroke ph job env ctx => cases ph <;> simp [dwellRanOut]

theorem mem_dueExpiries (h : Head) (u : HeadUnit) (c : Instr) :
    c ∈ dueExpiries h u ↔
      (c = .silenceTimerExpiry h ∧ u.link.silence = some 0) ∨ (c = .markPulseEnd h ∧ u.lines.pulse = some 0) ∨
        (c = .dwellTimerExpiry h ∧ ∃ job env ctx, u.engine = .stroke .dwell job env ctx ∧ ctx.remainingDwell = 0) := by
  have hmem : ∀ (b : Bool) (i : Instr), c ∈ (if b then [i] else []) ↔ c = i ∧ b = true := by
    intro b i
    cases b <;> simp
  rw [dueExpiries, List.mem_append, List.mem_append, hmem, hmem, hmem, ranOut_iff, ranOut_iff, dwellRanOut_iff,
    or_assoc]
  exact or_congr_right or_comm

/-- Settles O2: each head passes its microsecond by itself, and the expiries of both are queued. -/
theorem idleStepPassesMicrosecond : Obligations.IdleStepPassesMicrosecond := by
  intro s hp
  refine ⟨tick s, step_idle hp, rfl, fun h => ?_, fun h job env ctx he => ?_, fun h he => ?_, fun c => ?_⟩
  · rw [tick_head]
    rfl
  · rw [tick_head, tickHead, he]
    rfl
  · rw [tick_head]
    exact tickEngine_of_not_dwell he
  · have hpending : (tick s).pending = dueExpiries .a ((tick s).head .a) ++ dueExpiries .b ((tick s).head .b) := rfl
    rw [hpending, List.mem_append, mem_dueExpiries, mem_dueExpiries]
    constructor
    · rintro (hc | hc)
      · exact ⟨.a, hc⟩
      · exact ⟨.b, hc⟩
    · rintro ⟨h, hc⟩
      cases h with
      | a => exact .inl hc
      | b => exact .inr hc

end Sys2Proof.Machine
end

section
/-! PROOF. SET_LINE (R142). -/

namespace Sys2Proof.Machine

theorem exec_setLine_taken (s t : State) (head line value : Byte) (status : Status) (payload : List Byte)
    (hf : portFree s.cell)
    (hb : setLineBody head line value (s.beginTransaction .cell) = (t.beginTransaction .cell, status, payload)) :
    exec (.setLine .cell head line value) s = .next (t.withReply .cell 0x2B status payload) :=
  congrArg Host.Outcome.next
    (receive_eq_withReply (.setLine .cell head line value) .cell _ s t status payload hf
      (by simp [frameLength, fieldBytes]) rfl rfl hb)

theorem overrideOf_eq_none {b : Byte} (hb : 2 < b.toNat) : overrideOf b = none := by
  unfold overrideOf
  split
  · omega
  · omega
  · omega
  · rfl

theorem markSourceOf_eq_none {b : Byte} (hb : 4 < b.toNat) : markSourceOf b = none := by
  unfold markSourceOf
  split
  · omega
  · omega
  · omega
  · omega
  · omega
  · rfl

section
variable {s : State} (h : Head)

theorem setLineBody_permit (value : Byte) :
    setLineBody (headByte h) 0 value s = setPermit h (headByte h) 0 value s := by
  simp only [setLineBody, headOf_headByte]
  rfl

theorem setLineBody_mark (value : Byte) : setLineBody (headByte h) 1 value s = setMark h (headByte h) 1 value s := by
  simp only [setLineBody, headOf_headByte]
  rfl

end

theorem setLineBody_range {s : State} {b line value : Byte}
    (hr : 1 < b.toNat ∨ 1 < line.toNat ∨ line = 0 ∧ 2 < value.toNat ∨ line = 1 ∧ 4 < value.toNat) :
    setLineBody b line value s = (s, .range, []) := by
  cases hb : headOf b with
  | none => rw [setLineBody, hb]
  | some h =>
    rcases hr with hr | hr | ⟨rfl, hr⟩ | ⟨rfl, hr⟩
    · exact nomatch hb.symm.trans (headOf_eq_none hr)
    · simp only [setLineBody, hb]
      rw [if_neg (by omega), if_neg (by omega)]
    · simp only [setLineBody, hb, setPermit, overrideOf_eq_none hr]
      rfl
    · simp only [setLineBody, hb, setMark, markSourceOf_eq_none hr]
      rfl

section
variable (s : State) (h : Head)

/-- SET_LINE of PERMIT, taken: the override is stored, and the reply carries the level that results. -/
theorem exec_setLine_override {value : Byte} {o : PermitOverride} (hf : portFree s.cell) (ho : overrideOf value = some o)
    (hmode : o = .forceOn → s.map.mode ≠ .active) (hstop : o = .forceOn → (s.head h).lines.stop = false) :
    exec (.setLine .cell (headByte h) 0 value) s = .next
      ((s.modHead h (fun u => { u with lines := { u.lines with override := o } })).withReply .cell 0x2B .ok
        ([headByte h, 0, value] ++
          flag8 (permitLevel { s.head h with lines := { (s.head h).lines with override := o } }))) := by
  refine exec_setLine_taken s _ _ _ _ _ _ hf ?_
  have h1 : ¬ (o = .forceOn ∧ (s.beginTransaction .cell).map.mode = .active) := fun hx => hmode hx.1 hx.2
  have h2 : ¬ (o = .forceOn ∧ stopLevel (s.head h) = true) := fun ⟨hx, hy⟩ => nomatch hy.symm.trans (hstop hx)
  rw [setLineBody_permit, setPermit, ho]
  simp only [if_neg h1, State.modLines, State.modHead_beginTransaction, State.beginTransaction_head, if_neg h2,
    State.modHead_head]

/-- SET_LINE of MARK, taken: the source is stored, and the PERMIT level is what it was. -/
theorem exec_setLine_markSource {value : Byte} {m : MarkSource} (hf : portFree s.cell)
    (hm : markSourceOf value = some m) :
    exec (.setLine .cell (headByte h) 1 value) s = .next
      ((s.modHead h (fun u => { u with lines := { u.lines with markSource := m } })).withReply .cell 0x2B .ok
        ([headByte h, 1, value] ++ flag8 (permitLevel (s.head h)))) := by
  refine exec_setLine_taken s _ _ _ _ _ _ hf ?_
  rw [setLineBody_mark, setMark, hm]
  simp only [State.modLines, State.modHead_beginTransaction, State.beginTransaction_head, State.modHead_head]
  rfl

theorem exec_setLine_active (hf : portFree s.cell) (hm : s.map.mode = .active) :
    exec (.setLine .cell (headByte h) 0 2) s = .next (s.withReply .cell 0x2B .lineForced []) := by
  refine exec_setLine_taken s s _ _ _ _ _ hf ?_
  rw [setLineBody_permit]
  exact if_pos ⟨rfl, by simpa using hm⟩

theorem exec_setLine_stopped (hf : portFree s.cell) (hm : s.map.mode = .edit) (hstop : (s.head h).lines.stop = true) :
    exec (.setLine .cell (headByte h) 0 2) s = .next (s.withReply .cell 0x2B .stopped []) := by
  refine exec_setLine_taken s s _ _ _ _ _ hf ?_
  rw [setLineBody_permit]
  refine (if_neg fun hx => ?_).trans (if_pos ⟨rfl, by simpa [stopLevel] using hstop⟩)
  simp [hm] at hx

end

theorem advancing_iff (e : Engine) :
    advancing e = true ↔ engineState e = .approach ∨ engineState e = .engage := by
  cases e with
  | idle => simp [advancing, engineState]
  | composing job => simp [advancing, engineState]
  | armed job env => simp [advancing, engineState]
  | stroke ph job env ctx => cases ph <;> simp [advancing, engineState, phaseState]

/-- The code of each MARK source (12.6). -/
theorem markSourceOf_code {value : Byte} {m : MarkSource}
    (hm : value = 0 ∧ m = .off ∨ value = 1 ∧ m = .contact ∨ value = 2 ∧ m = .station ∨ value = 3 ∧ m = .excursion ∨
      value = 4 ∧ m = .seated) : markSourceOf value = some m := by
  rcases hm with ⟨rfl, rfl⟩ | ⟨rfl, rfl⟩ | ⟨rfl, rfl⟩ | ⟨rfl, rfl⟩ | ⟨rfl, rfl⟩ <;> rfl

/-- Settles O31, by the refusals of R142 in their order and then the line and the value that is stored. -/
theorem lineSet : Obligations.LineSet := by
  intro s b line value hf
  refine ⟨fun hr => exec_setLine_taken s s _ _ _ _ _ hf (setLineBody_range hr), fun h =>
    ⟨exec_setLine_active s h hf, exec_setLine_stopped s h hf, fun hm hstop => ?_, ?_, ?_, fun m hm => ?_⟩⟩
  · exact exec_setLine_override s h hf (value := 2) (o := .forceOn) rfl (fun _ => by simp [hm]) (fun _ => hstop)
  · exact exec_setLine_override s h hf (value := 1) (o := .forceOff) rfl nofun nofun
  · rw [exec_setLine_override s h hf (value := 0) (o := .engine) rfl nofun nofun, flag8_eq]
    simp only [permitLevel, Bool.and_eq_true, Bool.not_eq_true', advancing_iff]
    rfl
  · rw [exec_setLine_markSource s h hf (markSourceOf_code hm), flag8_eq]
    rfl

end Sys2Proof.Machine
end

section
/-! PROOF. SET_HEAD of the settings that act in no event (R27, R28). -/

namespace Sys2Proof.Machine

theorem settingOf_eq_none {g : Byte} (hg : 12 < g.toNat) : settingOf g = none := by
  unfold settingOf
  split
  case h_14 => rfl
  all_goals omega

theorem setHeadBody_range {b g : Byte} (hr : 1 < b.toNat ∨ 12 < g.toNat) (v : Word) (s : State) :
    setHeadBody b g v s = (s, .range, []) := by
  rcases hr with hb | hg
  · rw [setHeadBody, headOf_eq_none hb]
  · rw [setHeadBody, settingOf_eq_none hg]
    cases headOf b <;> rfl

/-- What SET_HEAD stores of a numeric setting, and its status, told by the range (R28). -/
theorem judgeSetting_numeric {g : Setting} {lo hi : Nat} (hr : settingRange g = some (lo, hi)) (hle : lo ≤ hi) (v : Nat) :
    judgeSetting g v = some (max lo (min hi v), if lo ≤ v ∧ v ≤ hi then .ok else .okClamped) := by
  rw [judgeSetting, hr]
  by_cases hv : lo ≤ v ∧ v ≤ hi
  · rw [if_pos hv]
    have hnot : ¬ (v < lo ∨ hi < v) := by omega
    have hself : max lo (min hi v) = v := by omega
    simp only [if_neg hnot, hself]
  · rw [if_neg hv]
    have hout : v < lo ∨ hi < v := by omega
    simp only [if_pos hout, clampTo_eq_max_min hle]

/-- SET_HEAD of a numeric setting: the clamped value is stored, and stored alone. -/
theorem exec_setHead_numeric {s : State} {h : Head} {g : Setting} {id : Byte} {lo hi : Nat} {v : Word}
    (hf : portFree s.cell) (hid : settingOf id = some g) (hr : settingRange g = some (lo, hi)) (hle : lo ≤ hi)
    (hplain : ∀ (t : State) (n : Nat),
      t.storeHead h g n = t.modHead h (fun u => { u with settings := storeSetting u.settings g n })) :
    exec (.setHead .cell (headByte h) id v) s = .next
      ((s.modHead h (fun u =>
          { u with settings := storeSetting (s.head h).settings g (max lo (min hi v.toNat)) })).withReply .cell 0x29
        (if lo ≤ v.toNat ∧ v.toNat ≤ hi then .ok else .okClamped)
        ([headByte h, id] ++ u32 (max lo (min hi v.toNat)))) := by
  have hown : s.modHead h (fun u => { u with settings := storeSetting u.settings g (max lo (min hi v.toNat)) }) =
      s.modHead h (fun u =>
        { u with settings := storeSetting (s.head h).settings g (max lo (min hi v.toNat)) }) := by
    cases h <;> rfl
  refine exec_setHead_taken s _ _ _ _ _ _ hf ?_
  rw [← hown, setHeadBody, headOf_headByte, hid]
  simp only [judgeSetting_numeric hr hle, hplain, State.modHead_beginTransaction]

theorem numericSettings_injective :
    ∀ e ∈ numericSettings, ∀ e' ∈ numericSettings,
      settingOf (BitVec.ofNat 8 e'.1) = settingOf (BitVec.ofNat 8 e.1) → e'.1 = e.1 := by
  decide

/-- To store one setting leaves every numeric setting of another identifier. -/
theorem storeSetting_other {g : Setting} {e e' : Nat × Nat × Nat × (Settings → Nat)} (he : e ∈ numericSettings)
    (he' : e' ∈ numericSettings) (hg : settingOf (BitVec.ofNat 8 e.1) = some g) (hne : e'.1 ≠ e.1) (t : Settings)
    (n : Nat) : e'.2.2.2 (storeSetting t g n) = e'.2.2.2 t := by
  have hother : settingOf (BitVec.ofNat 8 e'.1) ≠ some g := fun h =>
    hne (numericSettings_injective e he e' he' (h.trans hg.symm))
  clear hne hg he
  revert e'
  cases g <;> simp [numericSettings, storeSetting, settingOf]

/-- Settles O28: the numeric settings by one argument for every row of R27's table, and FAIL_ACTION by its two values. -/
theorem settingStored : Obligations.SettingStored := by
  intro s hf
  refine ⟨fun b g v hr => exec_setHead_taken s s _ _ _ _ _ hf (setHeadBody_range hr v _), fun h v id lo hi get hmem => ?_,
    fun h v => ?_⟩
  · have hrow := hmem
    simp only [numericSettings, List.mem_cons, Prod.mk.injEq, List.not_mem_nil, or_false] at hmem
    rcases hmem with ⟨rfl, rfl, rfl, rfl⟩ | ⟨rfl, rfl, rfl, rfl⟩ | ⟨rfl, rfl, rfl, rfl⟩ | ⟨rfl, rfl, rfl, rfl⟩ |
      ⟨rfl, rfl, rfl, rfl⟩ | ⟨rfl, rfl, rfl, rfl⟩ | ⟨rfl, rfl, rfl, rfl⟩ | ⟨rfl, rfl, rfl, rfl⟩ |
      ⟨rfl, rfl, rfl, rfl⟩ | ⟨rfl, rfl, rfl, rfl⟩
    all_goals
      refine ⟨_, exec_setHead_numeric hf rfl rfl (by decide) (fun _ _ => rfl), rfl, fun id' lo' hi' get' hm hne => ?_, rfl,
        rfl, rfl⟩
      exact storeSetting_other hrow hm rfl hne _ _
  · by_cases hv : v.toNat ≤ 1
    · rw [if_pos hv]
      exact exec_setHead_listed hf h (g := .failAction) rfl rfl (Nat.lt_succ_of_le hv)
    · rw [if_neg hv]
      exact exec_setHead_notListed hf h (g := .failAction) rfl rfl (Nat.not_le.1 hv)

end Sys2Proof.Machine
end

section
/-! PROOF. ARM_WATCH and DISARM_WATCH (R169). -/

namespace Sys2Proof.Machine

theorem exec_armWatch_taken (s t : State) (slot site lane : Byte) (status : Status) (payload : List Byte)
    (hf : portFree s.cell)
    (hb : armWatchBody slot site lane (s.beginTransaction .cell) = (t.beginTransaction .cell, status, payload)) :
    exec (.armWatch .cell slot site lane) s = .next (t.withReply .cell 0x48 status payload) :=
  congrArg Host.Outcome.next
    (receive_eq_withReply (.armWatch .cell slot site lane) .cell _ s t status payload hf
      (by simp [frameLength, fieldBytes]) rfl rfl hb)

theorem exec_disarmWatch_taken (s t : State) (slot : Byte) (status : Status) (payload : List Byte)
    (hf : portFree s.cell)
    (hb : disarmWatchBody slot (s.beginTransaction .cell) = (t.beginTransaction .cell, status, payload)) :
    exec (.disarmWatch .cell slot) s = .next (t.withReply .cell 0x49 status payload) :=
  congrArg Host.Outcome.next
    (receive_eq_withReply (.disarmWatch .cell slot) .cell _ s t status payload hf
      (by simp [frameLength, fieldBytes]) rfl rfl hb)

theorem State.setSlot_beginTransaction (s : State) (p : Port) (k : Nat) (w : WatchSlot) :
    (s.beginTransaction p).setSlot k w = (s.setSlot k w).beginTransaction p := by
  unfold State.setSlot
  split <;> cases p <;> rfl

/-- A slot written by its byte. -/
theorem State.setSlot_byte (s : State) (slot : Byte) (w : WatchSlot) :
    s.setSlot slot.toNat w = if slot = 0 then { s with slot0 := w } else { s with slot1 := w } := by
  have h0 : slot.toNat = 0 ↔ slot = 0 := BitVec.toNat_inj (y := 0)
  simp only [State.setSlot, h0]

/-- The match site of a byte: 255 is ANY, and an index of the table is that site. -/
theorem matchSiteOf_eq_some {site : Byte} (hsite : site.toNat ≤ 63 ∨ site = 255) :
    matchSiteOf site = some (if site = 255 then .any else .site site.toNat) := by
  rcases hsite with hsite | rfl
  · have hne : site ≠ 255 := fun h => by simp [h] at hsite
    have hne' : ¬ site.toNat = 255 := by omega
    rw [matchSiteOf, if_neg hne', if_pos (show site.toNat < Config.siteCount from Nat.lt_succ_of_le hsite), if_neg hne]
  · rfl

theorem matchSiteOf_eq_none {site : Byte} (hsite : 63 < site.toNat) (hne : site ≠ 255) : matchSiteOf site = none := by
  have hne' : ¬ site.toNat = 255 := fun h => hne (BitVec.eq_of_toNat_eq h)
  rw [matchSiteOf, if_neg hne', if_neg (show ¬ site.toNat < Config.siteCount from Nat.not_lt.2 hsite)]

/-- The match site in a reply is the byte that named it. -/
theorem matchSiteCode_byte (site : Byte) :
    u8 (matchSiteCode (if site = 255 then .any else .site site.toNat)) = [site] := by
  by_cases hs : site = 255
  · subst hs
    rfl
  · rw [if_neg hs]
    simp [matchSiteCode, u8]

theorem armWatchBody_range {s : State} {slot site lane : Byte}
    (hr : 1 < slot.toNat ∨ 63 < site.toNat ∧ site ≠ 255 ∨ 15 < lane.toNat) :
    armWatchBody slot site lane s = (s, .range, []) := by
  unfold armWatchBody
  split
  · rfl
  · next m hm =>
    refine if_pos ?_
    rcases hr with hr | ⟨hr, hne⟩ | hr
    · exact .inl hr
    · exact nomatch hm.symm.trans (matchSiteOf_eq_none hr hne)
    · exact .inr hr

section
variable {s : State} {slot site lane : Byte} (hslot : slot.toNat ≤ 1)
include hslot

theorem armWatchBody_eq (hsite : site.toNat ≤ 63 ∨ site = 255) (hlane : lane.toNat ≤ 15) :
    armWatchBody slot site lane s =
      if (s.slot slot.toNat).state = .filling then (s, .busy, [])
      else
        (s.setSlot slot.toNat
          { state := .armed, matchSite := some (if site = 255 then .any else .site site.toNat),
            matchLane := some lane.toNat, source := none, outcome := none, trace := [] }, .ok,
          [slot, Config.watchStateCode 1, site, lane]) := by
  have hin : ¬ (Config.slotCount ≤ slot.toNat ∨ Config.laneLimit ≤ lane.toNat) :=
    not_or.2 ⟨Nat.not_le.2 (Nat.lt_succ_of_le hslot), Nat.not_le.2 (Nat.lt_succ_of_le hlane)⟩
  simp only [armWatchBody, matchSiteOf_eq_some hsite, if_neg hin, matchSiteCode_byte]
  rfl

theorem disarmWatchBody_eq :
    disarmWatchBody slot s =
      if (s.slot slot.toNat).state = .filling then (s, .busy, [])
      else (s.setSlot slot.toNat WatchSlot.clear, .ok, [slot, Config.watchStateCode 0]) :=
  if_neg (Nat.not_le.2 (Nat.lt_succ_of_le hslot))

end

/-- Settles O53: a field out of range, a slot that fills, and a slot that is written by its byte. -/
theorem watchSlotsPointed : Obligations.WatchSlotsPointed := by
  intro s slot site lane put hf hput
  have hstore : ∀ w, s.setSlot slot.toNat w = put w := fun w => by rw [hput]; exact s.setSlot_byte slot w
  have hslot : (s.beginTransaction .cell).slot slot.toNat = s.slot slot.toNat := State.beginTransaction_slot s _ _
  refine ⟨fun hr => exec_armWatch_taken s s _ _ _ _ _ hf (armWatchBody_range hr), fun hs hsite hlane => ?_,
    fun hr => exec_disarmWatch_taken s s _ _ _ hf (if_pos hr), fun hs => ?_⟩
  · have hbody := armWatchBody_eq (s := s.beginTransaction .cell) hs hsite hlane
    rw [hslot] at hbody
    by_cases hfill : (s.slot slot.toNat).state = .filling
    · rw [if_pos hfill] at hbody ⊢
      exact exec_armWatch_taken s s _ _ _ _ _ hf hbody
    · rw [if_neg hfill] at hbody ⊢
      rw [State.setSlot_beginTransaction] at hbody
      rw [← hstore]
      exact exec_armWatch_taken s _ _ _ _ _ _ hf hbody
  · have hbody := disarmWatchBody_eq (s := s.beginTransaction .cell) hs
    rw [hslot] at hbody
    by_cases hfill : (s.slot slot.toNat).state = .filling
    · rw [if_pos hfill] at hbody ⊢
      exact exec_disarmWatch_taken s s _ _ _ hf hbody
    · rw [if_neg hfill] at hbody ⊢
      rw [State.setSlot_beginTransaction] at hbody
      rw [← hstore]
      exact exec_disarmWatch_taken s _ _ _ _ hf hbody

end Sys2Proof.Machine
end

section
/-! PROOF. How a port takes a request and a frame of bytes (R175 to R177, R186). -/

namespace Sys2Proof.Machine

/-! ## A request is judged as a frame -/

/-- Every request but RESTART, and END_TRANSFER of an open transfer, is a frame that its port judges. -/
theorem exec_judged (i : Instr) (p : Port) (hp : requestPort i = some p) (hr : i ≠ .restart .cell) :
    ∃ body, ∀ s : State, (i = .endTransfer .cell → s.cell.transfer = none) →
      exec i s = .next (judgeFrame i p body s) := by
  cases i
  case restart q =>
    obtain rfl := Option.some.inj hp
    cases q with
    | cell => exact absurd rfl hr
    | headA => exact ⟨_, fun _ _ => rfl⟩
    | headB => exact ⟨_, fun _ _ => rfl⟩
  case endTransfer q =>
    obtain rfl := Option.some.inj hp
    cases q with
    | cell =>
      refine ⟨fun t => t.answer .cell (requestCode (.endTransfer .cell)) .refusedState [], fun s ht => ?_⟩
      simp only [exec, execEndTransfer, ht rfl]
      rfl
    | headA => exact ⟨_, fun _ _ => rfl⟩
    | headB => exact ⟨_, fun _ _ => rfl⟩
  all_goals cases hp
  all_goals exact ⟨_, fun _ _ => rfl⟩

/-- Settles O4: what the port judges on a busy port it discards. -/
theorem busyPortDiscardsRequests : Obligations.BusyPortDiscardsRequests := by
  intro i p s hp hb hr ht
  obtain ⟨body, hexec⟩ := exec_judged i p hp hr
  rw [hexec s ht, judgeFrame_busy i p body s hb]

section
variable {i : Instr} {p : Port} {body : State → State} {s : State} (hf : portFree (s.port p))
include hf

theorem judgeFrame_tooLong (hl : 256 < frameLength i) : judgeFrame i p body s = s.withReply p 0x00 .frameError [] := by
  rcases judgeFrame_cases i p body s with ⟨hb, _⟩ | ⟨_, _, h⟩ | ⟨_, hl', _⟩ | ⟨_, hl', _⟩ | ⟨_, hl', _⟩
  · exact absurd hf hb
  · exact h
  all_goals omega

theorem judgeFrame_notListed (hl : frameLength i ≤ 256) (hc : codeListed p (requestCode i) = false) :
    judgeFrame i p body s = s.withReply p (requestCode i) .unknown [] := by
  rcases judgeFrame_cases i p body s with ⟨hb, _⟩ | ⟨_, hl', _⟩ | ⟨_, _, _, h⟩ | ⟨_, _, hc', _⟩ | ⟨_, _, hc', _⟩
  · exact absurd hf hb
  · omega
  · exact h
  · exact nomatch hc.symm.trans hc'
  · exact nomatch hc.symm.trans hc'

theorem judgeFrame_wrongLength (hl : frameLength i ≤ 256) (hc : codeListed p (requestCode i) = true)
    (ha : lengthAgrees p i = false) : judgeFrame i p body s = s.withReply p (requestCode i) .frameError [] := by
  rcases judgeFrame_cases i p body s with ⟨hb, _⟩ | ⟨_, hl', _⟩ | ⟨_, _, hc', _⟩ | ⟨_, _, _, _, h⟩ | ⟨_, _, _, ha', _⟩
  · exact absurd hf hb
  · omega
  · exact nomatch hc.symm.trans hc'
  · exact h
  · exact nomatch ha.symm.trans ha'

end

/-- A port that has no open transfer has none on the Cell Port, where END_TRANSFER would find it. -/
theorem noTransfer_of_free {i : Instr} {p : Port} {s : State} (hp : requestPort i = some p) (hf : portFree (s.port p)) :
    i = .endTransfer .cell → s.cell.transfer = none := by
  rintro rfl
  obtain rfl := Option.some.inj hp
  exact hf.2

/-- Settles O5: RESTART on the Cell Port is in none of the three cases, and every other request is judged as a frame. -/
theorem portJudgesFrames : Obligations.PortJudgesFrames := by
  intro i p s hp hf
  by_cases hr : i = .restart .cell
  · subst hr
    obtain rfl := Option.some.inj hp
    refine ⟨fun hl => absurd hl (by decide), fun _ hc => ?_, fun _ _ ha => ?_⟩
    · cases hc
    · cases ha
  · obtain ⟨body, hexec⟩ := exec_judged i p hp hr
    rw [hexec s (noTransfer_of_free hp hf)]
    exact ⟨fun hl => congrArg _ (judgeFrame_tooLong hf hl), fun hl hc => congrArg _ (judgeFrame_notListed hf hl hc),
      fun hl hc ha => congrArg _ (judgeFrame_wrongLength hf hl hc ha)⟩

/-! ## A request after what stands in reception -/

/-- A request reads of its port's reception only what `beginTransaction` makes of it, and so does the read of a reply. -/
theorem exec_congr_reception {c : Instr} {p : Port} (s : State) (d : Bool) (r : Option Reception)
    (hc : requestPort c = some p ∨ c = .replyRead p)
    (hb : (s.modPort p (fun u => { u with discarded := d, reception := r })).beginTransaction p = s.beginTransaction p) :
    exec c (s.modPort p (fun u => { u with discarded := d, reception := r })) = exec c s := by
  have hbusy : portBusy ((s.modPort p (fun u => { u with discarded := d, reception := r })).port p) =
      portBusy (s.port p) := by cases p <;> rfl
  have htransfer : (s.modPort p (fun u => { u with discarded := d, reception := r })).cell.transfer =
      s.cell.transfer := by cases p <;> rfl
  rcases hc with hp | rfl
  · by_cases hr : c = .restart .cell
    · subst hr
      obtain rfl := Option.some.inj hp
      have hrest : (s.modPort .cell (fun u => { u with discarded := d, reception := r })).restarted = s.restarted :=
        s.restarted_withCell _ rfl
      simp only [exec, execRestart, hrest]
      rfl
    · obtain ⟨body, hexec⟩ := exec_judged c p hp hr
      by_cases hopen : c = .endTransfer .cell → s.cell.transfer = none
      · rw [hexec s hopen, hexec _ (fun h => htransfer.trans (hopen h)), judgeFrame, judgeFrame, hbusy, hb]
      · obtain ⟨rfl, hsome⟩ := Classical.not_imp.1 hopen
        obtain rfl := Option.some.inj hp
        obtain ⟨t, ht⟩ := Option.ne_none_iff_exists'.1 hsome
        simp only [exec, execEndTransfer, htransfer, ht, hb]
  · simp only [exec, execReplyRead, hb]

theorem exec_withMark {c : Instr} {p : Port} {s : State} (hc : requestPort c = some p ∨ c = .replyRead p)
    (hl : leftShort (s.port p) = true) : exec c s = exec c (s.withMark p) :=
  (exec_congr_reception s true none hc (s.beginTransaction_withMark p hl)).symm

theorem exec_endReception {c : Instr} {p : Port} {s : State} (hc : requestPort c = some p ∨ c = .replyRead p)
    (hl : leftShort (s.port p) = false) : exec c s = exec c (s.endReception p) := by
  have hend : s.endReception p =
      s.modPort p (fun u => { u with discarded := (s.port p).discarded, reception := none }) := by cases p <;> rfl
  have hb : (s.endReception p).beginTransaction p = s.beginTransaction p := by
    rw [State.beginTransaction_endReception, State.beginTransaction_of_not_leftShort s p hl]
  rw [hend] at hb ⊢
  exact (exec_congr_reception s _ _ hc hb).symm

theorem leftShort_bytes {u : PortUnit} {got : List Byte} (hu : u.reception = some (.bytes got)) :
    leftShort u = (readTransaction got == .incomplete) := by
  rw [leftShort, hu]

theorem not_leftShort {u : PortUnit} {x : Reception} (hu : u.reception = some x)
    (hx : ∀ got, x = .bytes got → readTransaction got ≠ .incomplete) : leftShort u = false := by
  cases x with
  | bytes got => rw [leftShort_bytes hu]; exact beq_eq_false_iff_ne.2 (hx got rfl)
  | lapsed read => rw [leftShort, hu]

/-! ## A transaction of bytes -/

/-- A frame has as many bytes as its length field, at most 256, tells. -/
theorem frame_fields_le {bytes : List Byte} {code : Byte} {fields : List Byte}
    (h : readTransaction bytes = .frame code fields) : 4 + fields.length ≤ 256 := by
  cases bytes with
  | nil => cases h
  | cons t rest =>
    simp only [readTransaction] at h
    split at h
    · unfold readWrite at h
      split at h
      · next l0 l1 body =>
        split at h
        · cases h
        · next hlen =>
          split at h
          · cases h
          · split at h
            · next code' fields' htake =>
              obtain ⟨rfl, rfl⟩ := Transaction.frame.inj h
              have hcount := congrArg List.length htake
              rw [List.length_take, List.length_cons] at hcount
              omega
            · cases h
      · cases h
    · split at h <;> cases h

theorem portFree_endReception (s : State) (p : Port) : portFree ((s.endReception p).port p) ↔ portFree (s.port p) := by
  cases p <;> rfl

theorem State.withMark_endReception (s : State) (p : Port) : (s.endReception p).withMark p = s.withMark p := by
  cases p <;> rfl

theorem State.endReception_transfer (s : State) (p : Port) : (s.endReception p).cell.transfer = s.cell.transfer := by
  cases p <;> rfl

section
variable {p : Port} {bytes : List Byte} {s : State} {ended : Bool}

theorem transact_incomplete (h : readTransaction (clockedBytes (s.port p) bytes) = .incomplete) :
    transact p ended bytes s = .next (s.cutShort p ended bytes) := by
  rw [transact, State.clocked_eq, h]

theorem transact_badLength (h : readTransaction (clockedBytes (s.port p) bytes) = .badLength) :
    transact p ended bytes s = .next (s.badLength p) := by
  rw [transact, State.clocked_eq, h]

theorem transact_request {code : Byte} {fields : List Byte} {i : Instr}
    (h : readTransaction (clockedBytes (s.port p) bytes) = .frame code fields)
    (hi : parseRequest p code fields = some i) : transact p ended bytes s = exec i (s.endReception p) := by
  rw [transact, State.clocked_eq, h]
  simp only [hi]
  exact handRequest_eq_exec i p _ (parseRequest_some p code fields i hi).1

theorem transact_unspelled {code : Byte} {fields : List Byte}
    (h : readTransaction (clockedBytes (s.port p) bytes) = .frame code fields)
    (hi : parseRequest p code fields = none) : transact p ended bytes s = .next (s.unspelled p code) := by
  rw [transact, State.clocked_eq, h]
  simp only [hi]

/-- A frame on a busy port is discarded, but for RESTART and END_TRANSFER. -/
theorem transact_busy (harrives : arrives (clockedBytes (s.port p) bytes) = true) (hb : ¬ portFree (s.port p))
    (hother : ∀ code fields, readTransaction (clockedBytes (s.port p) bytes) = .frame code fields →
      parseRequest p code fields ≠ some (.restart .cell) ∧
        (parseRequest p code fields = some (.endTransfer .cell) → s.cell.transfer = none)) :
    transact p ended bytes s = .next (s.withMark p) := by
  have hbusy : portBusy (s.port p) = true := (portBusy_eq_true _).2 hb
  cases ht : readTransaction (clockedBytes (s.port p) bytes) with
  | nothing => simp [arrives, ht] at harrives
  | read n => simp [arrives, ht] at harrives
  | incomplete => simp [arrives, ht] at harrives
  | badLength => rw [transact_badLength ht, State.badLength, if_pos hbusy, State.discard_endReception]
  | frame code fields =>
    obtain ⟨hrestart, hopen⟩ := hother code fields ht
    cases hi : parseRequest p code fields with
    | none => rw [transact_unspelled ht hi, State.unspelled, if_pos hbusy, State.discard_endReception]
    | some i =>
      rw [hi] at hrestart hopen
      rw [transact_request ht hi,
        busyPortDiscardsRequests i p _ (parseRequest_some p code fields i hi).1
          (mt (portFree_endReception s p).1 hb) (fun h => hrestart (congrArg some h))
          (fun h => (s.endReception_transfer p).trans (hopen (congrArg some h))),
        State.withMark_endReception]

end

/-- Settles O6: the transactions that only mark, then the frames taken instead, then what a request makes of the
transaction that stands in reception. -/
theorem framesOnBusyOrCutShortOnlyMark : Obligations.FramesOnBusyOrCutShortOnlyMark := by
  intro p bytes s
  refine ⟨fun h => ?_, fun ha hb hother => transact_busy ha hb hother, fun code fields i h hi _ => transact_request h hi,
    fun got c hrec hshort hc => ?_, fun x c hrec hx hc => ?_⟩
  · refine (transact_incomplete h).trans ?_
    rw [State.cutShort, if_pos rfl, State.discard_endReception]
  · exact exec_withMark hc (by rw [leftShort_bytes hrec]; exact beq_iff_eq.2 hshort)
  · exact exec_endReception hc (not_leftShort hrec hx)

/-- Settles O7, by what the bytes are: short of a frame, of a bad length, or a frame that spells a request or none. -/
theorem unknownFrameAnswered : Obligations.UnknownFrameAnswered := by
  intro p bytes s
  have hfree : portFree (s.port p) → ¬ portBusy (s.port p) = true := fun hf hb => (portBusy_eq_true _).1 hb hf
  refine ⟨fun h => ?_, fun hf h => ?_, fun code fields h => ⟨fun hf hc => ?_, fun hf hc hi => ?_, fun i hi =>
    transact_request h hi⟩⟩
  · refine (transact_incomplete h).trans ?_
    cases p <;> rfl
  · refine (transact_badLength h).trans ?_
    rw [State.badLength, if_neg (hfree hf), State.answer_endReception]
  · cases hi : parseRequest p code fields with
    | none =>
      refine (transact_unspelled h hi).trans ?_
      rw [State.unspelled, if_neg (hfree hf), hc, Bool.not_false, if_pos rfl, State.answer_endReception]
    | some i =>
      obtain ⟨hp, hcode, hfields⟩ := parseRequest_some p code fields i hi
      have hlen : frameLength i ≤ 256 := by
        rw [frameLength, hfields]
        exact frame_fields_le h
      refine (transact_request h hi).trans ?_
      rw [(portJudgesFrames i p _ hp ((portFree_endReception s p).2 hf)).2.1 hlen (by rw [hcode]; exact hc), hcode]
  · refine (transact_unspelled h hi).trans ?_
    rw [State.unspelled, if_neg (hfree hf), hc, if_neg (by simp), State.answer_endReception]

end Sys2Proof.Machine
end

section
/-! PROOF. Reading the pending reply and the blocks of a transfer (R163, R175, R178, R186). -/

namespace Sys2Proof.Machine

/-! ## One change of a port after another -/

theorem State.modPort_modPort (s : State) (p : Port) (f g : PortUnit → PortUnit) :
    (s.modPort p f).modPort p g = s.modPort p (fun u => g (f u)) := by cases p <;> rfl

theorem State.modPort_congr {s : State} {p : Port} {f g : PortUnit → PortUnit} (h : f (s.port p) = g (s.port p)) :
    s.modPort p f = s.modPort p g := by
  cases p
  · exact congrArg (fun u => { s with cell := u }) h
  · exact congrArg (fun u => { s with portA := u }) h
  · exact congrArg (fun u => { s with portB := u }) h

/-! ## The three reads of a reply -/

theorem replyBytes_last {r : Reply} (hr : r.more = false) (mark : Bool) :
    replyBytes r mark =
      u16 (5 + r.payload.length) ++ [r.code, BitVec.ofNat 8 (statusCode r.status)] ++ [if mark then 2 else 0] ++
        r.payload := by
  rw [replyBytes, hr]
  cases mark <;> rfl

theorem replyBytes_more {r : Reply} (hr : r.more = true) (mark : Bool) :
    replyBytes r mark =
      u16 (5 + r.payload.length) ++ [r.code, BitVec.ofNat 8 (statusCode r.status)] ++ [if mark then 3 else 1] ++
        r.payload := by
  rw [replyBytes, hr]
  cases mark <;> rfl

section
variable {s : State} {p : Port}

theorem exec_replyRead_none (hr : (s.port p).reply = none) :
    exec (.replyRead p) s = .next (s.modPort p (fun u =>
      { u with wire := [0x00, 0x00], discarded := u.discarded || leftShort u, reception := none })) := by
  have hr' : ((s.beginTransaction p).port p).reply = none := by rw [State.beginTransaction_port]; exact hr
  simp only [exec, execReplyRead, State.readReply, hr']
  exact congrArg _ (State.modPort_modPort s p _ _)

variable {r : Reply} (hr : (s.port p).reply = some r)
include hr

theorem exec_replyRead_last (hm : r.more = false) :
    exec (.replyRead p) s = .next (s.modPort p (fun u =>
      { u with
          wire := replyBytes r (u.discarded || leftShort u), discarded := false, reply := none, transfer := none,
          reception := none })) := by
  have hr' : ((s.beginTransaction p).port p).reply = some r := by rw [State.beginTransaction_port]; exact hr
  simp only [exec, execReplyRead, State.readReply, hr', hm]
  exact congrArg _ (State.modPort_modPort s p _ _)

theorem exec_replyRead_more {t : Transfer} (hm : r.more = true) (ht : (s.port p).transfer = some t) :
    exec (.replyRead p) s = .next (s.modPort p (fun u =>
      { u with
          wire := replyBytes r (u.discarded || leftShort u), discarded := false, reply := some (nextBlock s t .ok),
          transfer := some (advanceTransfer s t), reception := none })) := by
  have hr' : ((s.beginTransaction p).port p).reply = some r := by rw [State.beginTransaction_port]; exact hr
  have ht' : ((s.beginTransaction p).port p).transfer = some t := by rw [State.beginTransaction_port]; exact ht
  simp only [exec, execReplyRead, State.readReply, hr', hm, ht', State.formBlock]
  simp only [State.beginTransaction, nextBlock_modPort, advanceTransfer_modPort, State.modPort_modPort]

end

/-! ## The next block -/

theorem nextBlock_overtaken {s : State} {t : Transfer} {site first : Nat} (st : Status) (hk : t.kind = .pins site first)
    (ho : t.overtaken = true) :
    nextBlock s t st =
      { code := 0x40, status := .recordChanged, more := false,
        payload := u8 site ++ u16 (first + t.formed) ++ u16 t.count ++ [0] } := by
  rw [nextBlock, if_pos ho, blockHead, hk]
  rfl

theorem nextBlock_eq {s : State} {t : Transfer} (st : Status) (ho : t.overtaken = false) :
    nextBlock s t st =
      { code := transferCode t.kind, status := st,
        more := decide (t.formed + min s.blockSize (t.count - t.formed) < t.count),
        payload := blockHead s t (min s.blockSize (t.count - t.formed)) ++
          blockEntries s t (min s.blockSize (t.count - t.formed)) } := by
  rw [nextBlock, if_neg (by simp [ho])]
  rfl

theorem advanceTransfer_eq {s : State} {t : Transfer} (ho : t.overtaken = false) :
    advanceTransfer s t =
      { t with before := t.formed, formed := t.formed + min s.blockSize (t.count - t.formed) } := by
  rw [advanceTransfer, if_neg (by simp [ho])]
  rfl

theorem advanceTransfer_overtaken {s : State} {t : Transfer} (ho : t.overtaken = true) :
    advanceTransfer s t = { t with before := t.formed } := by
  rw [advanceTransfer, if_pos ho]

/-! ## Reads given as bytes -/

theorem frameOut_eq (u : PortUnit) :
    frameOut u = match u.reply with
      | none => [0x00, 0x00]
      | some r => replyBytes r u.discarded := by
  unfold frameOut
  cases u.reply <;> rfl

theorem State.readReply_wire (s : State) (p : Port) : ((s.readReply p).port p).wire = frameOut (s.port p) := by
  rcases s.readReply_cases p with ⟨hr, h⟩ | ⟨r, t, hr, _, _, h⟩ | ⟨r, hr, _, _, h⟩ | ⟨r, hr, _, h⟩
  all_goals rw [h, State.modPort_port, frameOut, hr]

theorem transact_read {p : Port} {bytes : List Byte} {s : State} {ended : Bool} {n : Nat}
    (h : readTransaction (clockedBytes (s.port p) bytes) = .read n) :
    transact p ended bytes s = .next (s.readBytes p n (s.going p ended bytes)) := by
  rw [transact, State.clocked_eq, h]

/-- A read of every byte is REPLY_READ, with 00 for the bytes beyond the frame's last one. -/
theorem readBytes_eq_replyRead {p : Port} {bytes : List Byte} {s : State} {n : Nat} (going : Option Reception)
    (h : readTransaction (clockedBytes (s.port p) bytes) = .read n) (hn : (frameOut (s.port p)).length ≤ n) :
    s.readBytes p n going = ((s.beginTransaction p).readReply p).modPort p (fun u =>
      { u with wire := frameOut (s.port p) ++ List.replicate (n - (frameOut (s.port p)).length) 0x00 }) := by
  have hout : (((s.endReception p).readReply p).port p).wire = frameOut (s.port p) := by
    rw [State.readReply_wire, State.endReception_port]
    rfl
  rw [State.readBytes_whole s p n going hn, State.beginTransaction_of_not_leftShort s p (not_leftShort_of_read _ _ _ h)]
  exact State.modPort_congr (by rw [hout])

/-- Settles O8: the three reads of a reply, the block that a transfer forms next, and the reads given as bytes. -/
theorem replyReadDelivers : Obligations.ReplyReadDelivers := by
  intro p s
  refine ⟨exec_replyRead_none, fun r hr hm => ?_, fun r t hr hm ht => ?_, fun bytes n out h hout => ?_⟩
  · rw [exec_replyRead_last hr hm]
    simp only [replyBytes_last hm]
  · refine ⟨nextBlock s t .ok, advanceTransfer s t, ?_, fun site first hk ho => ?_, fun ho n hn => ?_⟩
    · rw [exec_replyRead_more hr hm ht]
      simp only [replyBytes_more hm]
    · exact ⟨advanceTransfer_overtaken ho, nextBlock_overtaken .ok hk ho⟩
    · subst hn
      rw [nextBlock_eq .ok ho, advanceTransfer_eq ho]
      refine ⟨rfl, rfl, rfl, fun site first hk => ?_, fun first hk => ?_, fun slot w hk hw => ?_⟩
      · exact ⟨by rw [hk]; rfl, by simp only [hk, blockHead, blockEntries]⟩
      · exact ⟨by rw [hk]; rfl, by simp only [hk, blockHead, blockEntries]⟩
      · exact ⟨by rw [hk]; rfl, by simp only [hk, hw, blockHead, blockEntries]⟩
  · have hframe : out = frameOut (s.port p) := hout.trans (frameOut_eq _).symm
    subst hframe
    refine ⟨fun hn => ⟨?_, ?_⟩, fun hn => ⟨_, rfl, ?_⟩⟩
    · refine (transact_read (ended := true) h).trans ?_
      rw [State.readBytes_short s p n _ hn]
      exact congrArg _ (State.modPort_congr rfl)
    · refine (transact_read (ended := false) h).trans ?_
      rw [State.readBytes_short s p n _ hn]
      exact congrArg _ (State.modPort_congr rfl)
    · rintro c (rfl | rfl)
      · exact (transact_read (ended := true) h).trans (congrArg _ (readBytes_eq_replyRead _ h hn))
      · exact (transact_read (ended := false) h).trans (congrArg _ (readBytes_eq_replyRead _ h hn))

/-! ## Opening a transfer -/

/-- The state with a transfer open on the Cell Port and its first block pending, in a transaction of its own. -/
theorem State.openTransfer_begun (s : State) (k : TransferKind) (n : Nat) (clamped : Bool) :
    (s.beginTransaction .cell).openTransfer .cell k n clamped =
      { s with
          cell :=
            { s.cell with
                discarded := s.cell.discarded || leftShort s.cell, reception := none,
                transfer :=
                  some { kind := k, count := n, formed := min s.blockSize n, before := 0, overtaken := false },
                reply :=
                  some
                    { code := transferCode k, status := if clamped then .okClamped else .ok,
                      more := decide (s.blockSize < n),
                      payload :=
                        blockHead s { kind := k, count := n, formed := 0, before := 0, overtaken := false }
                            (min s.blockSize n) ++
                          blockEntries s { kind := k, count := n, formed := 0, before := 0, overtaken := false }
                            (min s.blockSize n) } } } := by
  have hmore : decide (min s.blockSize n < n) = decide (s.blockSize < n) := by
    congr 1
    exact propext (by omega)
  rw [State.openTransfer, State.formBlock, State.beginTransaction, nextBlock_modPort, advanceTransfer_modPort,
    State.modPort_modPort, nextBlock_eq _ rfl, advanceTransfer_eq rfl]
  simp only [Nat.sub_zero, Nat.zero_add, hmore]
  rfl

theorem u8_toNat (b : Byte) : u8 b.toNat = [b] := by rw [u8, BitVec.ofNat_toNat, BitVec.setWidth_eq]

theorem u16_toNat (v : Half) : u16 v.toNat = le16 v := by rw [u16, BitVec.ofNat_toNat, BitVec.setWidth_eq]

theorem exec_readPins_judged {s : State} (site count : Byte) (first : Half) (hf : portFree s.cell) :
    exec (.readPins .cell site first count) s =
      .next (readPinsBody .cell site first count (s.beginTransaction .cell)) :=
  congrArg Host.Outcome.next
    (judgeFrame_taken (.readPins .cell site first count) .cell _ s hf (by simp [frameLength, fieldBytes, le16]) rfl rfl)

theorem exec_readTrace_judged {s : State} (slot : Byte) (hf : portFree s.cell) :
    exec (.readTrace .cell slot) s = .next (readTraceBody .cell slot (s.beginTransaction .cell)) :=
  congrArg Host.Outcome.next
    (judgeFrame_taken (.readTrace .cell slot) .cell _ s hf (by simp [frameLength, fieldBytes]) rfl rfl)

theorem exec_readSites_judged {s : State} (first count : Byte) (hf : portFree s.cell) :
    exec (.readSites .cell first count) s = .next (readSitesBody .cell first count (s.beginTransaction .cell)) :=
  congrArg Host.Outcome.next
    (judgeFrame_taken (.readSites .cell first count) .cell _ s hf (by simp [frameLength, fieldBytes]) rfl rfl)

theorem readPinsBody_range {s : State} {site count : Byte} {first : Half}
    (hr : 63 < site.toNat ∨ (s.site site.toNat).pinCount ≤ first.toNat ∨
      4095 < (s.site site.toNat).firstPin + first.toNat) :
    readPinsBody .cell site first count s = s.answer .cell 0x40 .range [] := by
  unfold readPinsBody
  by_cases h1 : Config.siteCount ≤ site.toNat
  · rw [if_pos h1]
  by_cases h2 : (s.site site.toNat).pinCount ≤ first.toNat
  · rw [if_neg h1, if_pos h2]
  rw [if_neg h1, if_neg h2]
  refine if_pos ?_
  rcases hr with hr | hr | hr
  · exact absurd hr h1
  · exact absurd hr h2
  · exact hr

/-- READ_PINS taken: the count asked for, clamped to what is left of the site and of the table. -/
theorem readPinsBody_taken {s : State} {site count : Byte} {first : Half}
    (hr : ¬ (63 < site.toNat ∨ (s.site site.toNat).pinCount ≤ first.toNat ∨
      4095 < (s.site site.toNat).firstPin + first.toNat)) :
    readPinsBody .cell site first count s =
      s.openTransfer .cell (.pins site.toNat first.toNat)
        (min (askedCount count 256) (pinsLeft (s.site site.toNat) first.toNat))
        (decide (pinsLeft (s.site site.toNat) first.toNat < askedCount count 256)) := by
  simp only [not_or] at hr
  obtain ⟨h1, h2, h3⟩ := hr
  rw [readPinsBody, if_neg (show ¬ Config.siteCount ≤ site.toNat from h1), if_neg h2,
    if_neg (show ¬ Config.pinCount ≤ _ from h3)]

/-- Settles O10: each request is refused by its own checks, and else opens its transfer. -/
theorem pinsAndTraceTransfersOpen : Obligations.PinsAndTraceTransfersOpen := by
  intro s hf
  refine ⟨fun site count first x asked left n hx hasked hleft hn => ?_, fun slot w hw => ?_⟩
  · have hasked' : askedCount count 256 = asked := hasked.symm
    have hleft' : pinsLeft (s.site site.toNat) first.toNat = left := by rw [hleft, hx]; rfl
    rw [exec_readPins_judged site count first hf]
    subst hx
    by_cases hr : 63 < site.toNat ∨ (s.site site.toNat).pinCount ≤ first.toNat ∨
        4095 < (s.site site.toNat).firstPin + first.toNat
    · rw [if_pos hr, readPinsBody_range (s := s.beginTransaction .cell) (by simpa using hr),
        State.answer_beginTransaction]
    · rw [if_neg hr, readPinsBody_taken (s := s.beginTransaction .cell) (by simpa using hr), State.openTransfer_begun,
        State.beginTransaction_site, hasked', hleft', ← hn]
      simp only [blockHead, blockEntries, Nat.add_zero, u8_toNat, u16_toNat, decide_eq_true_eq]
      rfl
  · rw [exec_readTrace_judged slot hf]
    have hslot : (s.beginTransaction .cell).slot slot.toNat = w := by rw [State.beginTransaction_slot, hw]
    unfold readTraceBody
    by_cases h1 : 1 < slot.toNat
    · rw [if_pos h1, if_pos (show Config.slotCount ≤ slot.toNat from h1), State.answer_beginTransaction]
    · rw [if_neg h1, if_neg (show ¬ Config.slotCount ≤ slot.toNat from h1), hslot]
      cases hst : w.state with
      | filling => exact congrArg _ (State.answer_beginTransaction s _ _ _ _)
      | empty => exact congrArg _ (State.answer_beginTransaction s _ _ _ _)
      | armed => exact congrArg _ (State.answer_beginTransaction s _ _ _ _)
      | full =>
        simp only [State.openTransfer_begun, blockHead, blockEntries, u8_toNat, ← hw, List.drop_zero,
          ← List.take_eq_take_min]
        rfl

/-! ## The blocks of READ_SITES -/

theorem readCell_succ {n : Nat} : ∀ {s u v : State}, readCell n s = some u → exec (.replyRead .cell) u = .next v →
    readCell (n + 1) s = some v := by
  induction n with
  | zero =>
    intro s u v hu hv
    obtain rfl := Option.some.inj hu
    simp only [readCell, hv]
  | succ n ih =>
    intro s u v hu hv
    rw [readCell] at hu ⊢
    split at hu
    · next t ht => exact ih hu hv
    · cases hu
    · cases hu

section
variable (s : State) (first n : Nat)

/-- A READ_SITES of which the blocks before block `k` have been formed. -/
def sitesTransfer (k : Nat) : Transfer :=
  { kind := .sites first, count := n, formed := min (k * s.blockSize) n, before := min ((k - 1) * s.blockSize) n,
    overtaken := false }

/-- Block `k` of a READ_SITES is the pending reply, with a status, and nothing but the Cell Port has changed. -/
structure SitesBlock (k : Nat) (st : Status) (u : State) : Prop where
  frame : u = { s with cell := u.cell }
  reply : u.cell.reply = some (nextBlock s (sitesTransfer s first n k) st)
  transfer : u.cell.transfer = some (sitesTransfer s first n (k + 1))

variable {s first n}

theorem advance_sitesTransfer {k : Nat} :
    advanceTransfer s (sitesTransfer s first n k) = sitesTransfer s first n (k + 1) := by
  rw [advanceTransfer_eq rfl]
  have hformed : min (k * s.blockSize) n + min s.blockSize (n - min (k * s.blockSize) n) =
      min ((k + 1) * s.blockSize) n := by
    rw [Nat.succ_mul]
    omega
  simp only [sitesTransfer, hformed, Nat.add_sub_cancel]

theorem nextBlock_sitesTransfer {k : Nat} (st : Status) (hk : k * s.blockSize < n) :
    nextBlock s (sitesTransfer s first n k) st =
      { code := 0x41, status := st, more := decide ((k + 1) * s.blockSize < n),
        payload :=
          u8 (first + k * s.blockSize) ++ u8 n ++ u8 (min s.blockSize (n - k * s.blockSize)) ++
            (List.range (min s.blockSize (n - k * s.blockSize))).flatMap
              (fun j => siteEntryBytes s (first + k * s.blockSize + j)) } := by
  have hformed : min (k * s.blockSize) n = k * s.blockSize := Nat.min_eq_left hk.le
  have hmore : decide (k * s.blockSize + min s.blockSize (n - k * s.blockSize) < n) =
      decide ((k + 1) * s.blockSize < n) := by
    congr 1
    rw [Nat.succ_mul]
    exact propext (by omega)
  rw [nextBlock_eq st rfl]
  simp only [sitesTransfer, hformed, hmore, blockHead, blockEntries]
  rfl

/-- Reading a block that is flagged MORE makes the next one the pending reply. -/
theorem SitesBlock.next {k : Nat} {st : Status} {u : State} (hu : SitesBlock s first n k st u)
    (hk : (k + 1) * s.blockSize < n) :
    ∃ v, exec (.replyRead .cell) u = .next v ∧ SitesBlock s first n (k + 1) .ok v := by
  obtain ⟨hframe, hreply, htransfer⟩ := hu
  have hk' : k * s.blockSize < n := lt_of_le_of_lt (Nat.mul_le_mul_right _ (Nat.le_succ k)) hk
  have hmore : (nextBlock s (sitesTransfer s first n k) st).more = true := by
    rw [nextBlock_sitesTransfer st hk']
    exact decide_eq_true hk
  refine ⟨_, exec_replyRead_more (p := .cell) hreply hmore htransfer, ?_, ?_, ?_⟩
  · rw [hframe]
    rfl
  · rw [hframe]
    rfl
  · have hadvance : advanceTransfer u (sitesTransfer s first n (k + 1)) =
        advanceTransfer s (sitesTransfer s first n (k + 1)) := by
      rw [hframe]
      rfl
    exact congrArg some (hadvance.trans advance_sitesTransfer)

/-- Reading the last block ends the transfer. -/
theorem SitesBlock.last {k : Nat} {st : Status} {u : State} (hu : SitesBlock s first n k st u)
    (hk : k * s.blockSize < n) (hlast : n ≤ (k + 1) * s.blockSize) :
    ∃ v, exec (.replyRead .cell) u = .next v ∧ portFree v.cell := by
  have hmore : (nextBlock s (sitesTransfer s first n k) st).more = false := by
    rw [nextBlock_sitesTransfer st hk]
    exact decide_eq_false (Nat.not_lt.2 hlast)
  exact ⟨_, exec_replyRead_last (p := .cell) hu.reply hmore, rfl, rfl⟩

/-- Every block of a READ_SITES that has been opened becomes the pending reply in its turn. -/
theorem readCell_sitesBlock {t : State} {st : Status} (ht : SitesBlock s first n 0 st t) :
    ∀ k, k * s.blockSize < n →
      ∃ u, readCell k t = some u ∧ SitesBlock s first n k (if k = 0 then st else .ok) u := by
  intro k
  induction k with
  | zero => exact fun _ => ⟨t, rfl, ht⟩
  | succ k ih =>
    intro hk
    obtain ⟨u, hread, hu⟩ := ih (lt_of_le_of_lt (Nat.mul_le_mul_right _ (Nat.le_succ k)) hk)
    obtain ⟨v, hv, hblock⟩ := hu.next hk
    exact ⟨v, readCell_succ hread hv, hblock⟩

end

/-- Settles O9: the blocks follow one another by `SitesBlock`, the last of them being block ⌈n / B⌉ - 1. -/
theorem sitesReadoutBlocks : Obligations.SitesReadoutBlocks := by
  refine ⟨fun s first count hf hfirst => ?_, fun s first count asked n hf hsize hfirst hasked hn => ?_⟩
  · rw [exec_readSites_judged first count hf, readSitesBody, if_pos (show Config.siteCount ≤ first.toNat from hfirst),
      State.answer_beginTransaction]
  · have hasked' : askedCount count Config.siteCount = asked := hasked.symm
    have hpos : 0 < n := by
      have : 0 < asked := by rw [hasked]; split <;> omega
      omega
    have hstatus : (if decide (Config.siteCount - first.toNat < asked) = true then Status.okClamped else .ok) =
        if n < asked then .okClamped else .ok := by
      have : Config.siteCount - first.toNat < asked ↔ n < asked := by
        have hcount : Config.siteCount = 64 := rfl
        omega
      simp only [decide_eq_true_eq, this]
    have hopen : ∃ t, exec (.readSites .cell first count) s = .next t ∧
        SitesBlock s first.toNat n 0 (if n < asked then .okClamped else .ok) t := by
      refine ⟨_, exec_readSites_judged first count hf, ?_⟩
      rw [readSitesBody, if_neg (show ¬ Config.siteCount ≤ first.toNat from Nat.not_le.2 hfirst), hasked',
        State.openTransfer, State.formBlock, State.beginTransaction, nextBlock_modPort, advanceTransfer_modPort,
        State.modPort_modPort, hstatus, show min asked (Config.siteCount - first.toNat) = n from hn.symm]
      have hzero : ({ kind := .sites first.toNat, count := n, formed := 0, before := 0, overtaken := false } : Transfer) =
          sitesTransfer s first.toNat n 0 := by simp [sitesTransfer]
      rw [hzero, advance_sitesTransfer]
      exact ⟨rfl, rfl, rfl⟩
    obtain ⟨t, hexec, hblock⟩ := hopen
    refine ⟨t, hexec, hblock.frame, fun k hk => ?_, ?_⟩
    · obtain ⟨u, hread, hu⟩ := readCell_sitesBlock hblock k hk
      refine ⟨u, hread, hu.frame, ?_⟩
      rw [hu.reply, nextBlock_sitesTransfer _ hk]
      by_cases h0 : k = 0 <;> simp [h0]
    · obtain ⟨k, hk⟩ : ∃ k, (n + s.blockSize - 1) / s.blockSize = k + 1 :=
        Nat.exists_eq_add_one.2 (Nat.div_pos (by omega) hsize)
      have hupper := Nat.lt_mul_div_succ (n + s.blockSize - 1) hsize
      have hlower := Nat.div_mul_le_self (n + s.blockSize - 1) s.blockSize
      rw [hk] at hupper hlower ⊢
      have hlt : k * s.blockSize < n := by
        rw [Nat.succ_mul] at hlower
        omega
      have hle : n ≤ (k + 1) * s.blockSize := by
        rw [Nat.mul_comm, Nat.succ_mul] at hupper
        omega
      obtain ⟨u, hread, hu⟩ := readCell_sitesBlock hblock k hlt
      obtain ⟨v, hv, hfree⟩ := hu.last hlt hle
      exact ⟨v, readCell_succ hread hv, hfree⟩

end Sys2Proof.Machine
end

section
/-! PROOF. READ_RECORD (R162) and the bytes of a Press Record (12.4). -/

namespace Sys2Proof.Machine

@[simp] theorem length_u8 (n : Nat) : (u8 n).length = 1 := rfl
@[simp] theorem length_u16 (n : Nat) : (u16 n).length = 2 := rfl
@[simp] theorem length_u32 (n : Nat) : (u32 n).length = 4 := rfl
@[simp] theorem length_i32 (n : Int) : (i32 n).length = 4 := rfl
@[simp] theorem length_le16 (v : Half) : (le16 v).length = 2 := rfl
@[simp] theorem length_bits8 (bs : List Bool) : (bits8 bs).length = 1 := rfl
@[simp] theorem length_opt8 (v : Option Nat) : (opt8 v).length = 1 := rfl
@[simp] theorem length_optI32 (v : Option Int) : (optI32 v).length = 4 := rfl

theorem bits8_two (a b : Bool) : bits8 [a, b] = u8 ((if a then 1 else 0) + (if b then 2 else 0)) := by
  cases a <;> cases b <;> rfl

theorem bits8_five (a b c d e : Bool) :
    bits8 [a, b, c, d, e] =
      u8 ((if a then 1 else 0) + (if b then 2 else 0) + (if c then 4 else 0) + (if d then 8 else 0) +
        (if e then 16 else 0)) := by
  cases a <;> cases b <;> cases c <;> cases d <;> cases e <;> rfl

/-- The first five bytes of a Press Record. -/
def recordTop (site : Nat) (r : PressRecord) : List Byte :=
  u8 site ++ opt8 (r.head.map headCode) ++ opt8 (r.kind.map kindCode) ++ u8 (outcomeCode r.outcome) ++
    bits8 [r.contact.isSome, r.seatedDepth.isSome, r.maxDepth.isSome, r.faultLane.isSome, r.faultStation.isSome]

/-- The twenty-five bytes of a Press Record between its first five and its lane summaries. -/
def recordMiddle (r : PressRecord) : List Byte :=
  le16 r.bankGeneration ++ le16 r.mapGeneration ++ optI32 r.contact ++ optI32 r.seatedDepth ++ u32 r.peakTotal ++
    optI32 r.maxDepth ++ u8 r.stations ++ u8 r.coarse ++ opt8 r.faultLane ++ opt8 r.faultStation ++ u8 r.lanes.length

theorem recordBytes_eq (site : Nat) (r : PressRecord) :
    recordBytes site r = recordTop site r ++ (recordMiddle r ++ summariesBytes 0 r.lanes) := by
  simp only [recordBytes, recordTop, recordMiddle, List.append_assoc]

theorem length_recordTop (site : Nat) (r : PressRecord) : (recordTop site r).length = 5 := rfl

theorem length_recordMiddle (r : PressRecord) : (recordMiddle r).length = 25 := rfl

theorem length_summaryBytes (lane : Nat) (l : LaneSummary) : (summaryBytes lane l).length = 9 := rfl

theorem length_summariesBytes (ls : List LaneSummary) : ∀ lane, (summariesBytes lane ls).length = 9 * ls.length := by
  induction ls with
  | nil => exact fun _ => rfl
  | cons l ls ih =>
    intro lane
    rw [summariesBytes, List.length_append, length_summaryBytes, ih, List.length_cons]
    omega

/-- The summary of each lane stands in its place, nine bytes after the one before. -/
theorem summariesBytes_get (ls : List LaneSummary) : ∀ (lane k : Nat) (l : LaneSummary), ls[k]? = some l →
    ((summariesBytes lane ls).drop (9 * k)).take 9 = summaryBytes (lane + k) l := by
  induction ls with
  | nil => exact fun _ _ _ h => by simp at h
  | cons x xs ih =>
    intro lane k l h
    cases k with
    | zero =>
      obtain rfl : x = l := by simpa using h
      exact List.take_left' (length_summaryBytes lane x)
    | succ k =>
      have hdrop : (summariesBytes lane (x :: xs)).drop (9 * (k + 1)) = (summariesBytes (lane + 1) xs).drop (9 * k) := by
        rw [summariesBytes, show 9 * (k + 1) = (summaryBytes lane x).length + 9 * k by rw [length_summaryBytes]; omega,
          ← List.drop_drop, List.drop_left]
      rw [hdrop, ih (lane + 1) k l (by simpa using h), Nat.add_right_comm]
      rfl

theorem exec_readRecord_taken (p : Port) (s : State) (site : Byte) (status : Status) (payload : List Byte)
    (hf : portFree (s.port p))
    (hb : readRecordBody site (s.beginTransaction p) = (s.beginTransaction p, status, payload)) :
    exec (.readRecord p site) s = .next (s.withReply p 0x04 status payload) :=
  congrArg Host.Outcome.next
    (receive_eq_withReply (.readRecord p site) p _ s s status payload hf (by simp [frameLength, fieldBytes])
      (by cases p <;> rfl) rfl hb)

/-- Settles O14: the payload is `recordBytes`, cut at its fifth and its thirtieth byte. -/
theorem readRecordReturns : Obligations.ReadRecordReturns := by
  intro p s site hf
  refine ⟨fun hr => exec_readRecord_taken p s site _ _ hf (if_pos hr), fun hr => ?_⟩
  have hbody : readRecordBody site (s.beginTransaction p) =
      (s.beginTransaction p, .ok, recordBytes site.toNat (s.record site.toNat)) := by
    rw [readRecordBody, if_neg (siteCount_not_le hr), State.beginTransaction_record]
  refine ⟨_, exec_readRecord_taken p s site _ _ hf hbody, ?_, ?_, ?_, fun k l hl => ?_⟩
  · rw [recordBytes_eq, List.length_append, List.length_append, length_recordTop, length_recordMiddle,
      length_summariesBytes, ← Nat.add_assoc]
  · rw [recordBytes_eq, List.take_left' (length_recordTop _ _), recordTop, u8_toNat, bits8_five]
  · rw [recordBytes_eq, List.drop_left' (length_recordTop _ _), List.take_left' (length_recordMiddle _)]
    rfl
  · have hdrop : (recordBytes site.toNat (s.record site.toNat)).drop (30 + 9 * k) =
        (summariesBytes 0 (s.record site.toNat).lanes).drop (9 * k) := by
      rw [recordBytes_eq, ← List.append_assoc, ← List.drop_drop]
      exact congrArg _ (List.drop_left' rfl)
    rw [hdrop, summariesBytes_get _ 0 k l hl, Nat.zero_add, summaryBytes, bits8_two]
    rfl

end Sys2Proof.Machine
end

section
/-! PROOF. The notice queues (R184, R185). -/

namespace Sys2Proof.Machine

/-! ## The two parts of a queue -/

section
variable {us ns : List Notice} (hu : ∀ m ∈ us, urgent m = true) (hn : ∀ m ∈ ns, urgent m = false)
include hu hn

/-- URGENT notices before NORMAL ones keep the law of the queue's order. -/
theorem pairwise_urgent_append : List.Pairwise (fun m n => urgent n = true → urgent m = true) (us ++ ns) := by
  rw [List.pairwise_append]
  refine ⟨List.pairwise_of_forall_mem_list fun m hm _ _ _ => hu m hm,
    List.pairwise_of_forall_mem_list fun _ _ n hn' h => ?_, fun m hm _ _ _ => hu m hm⟩
  exact nomatch (hn n hn').symm.trans h

theorem takeWhile_urgent_append : (us ++ ns).takeWhile urgent = us := by
  rw [List.takeWhile_append_of_pos hu]
  cases ns with
  | nil => simp
  | cons n rest => rw [List.takeWhile_cons_of_neg (by simp [hn n (by simp)]), List.append_nil]

theorem dropWhile_urgent_append : (us ++ ns).dropWhile urgent = ns := by
  rw [List.dropWhile_append_of_pos hu]
  cases ns with
  | nil => rfl
  | cons n rest => exact List.dropWhile_cons_of_neg (by simp [hn n (by simp)])

/-- An URGENT notice is placed after the last URGENT one, a NORMAL one at the end (R184). -/
theorem placeNotice_append (n : Notice) :
    placeNotice (us ++ ns) n = if urgent n then us ++ [n] ++ ns else us ++ ns ++ [n] := by
  rw [placeNotice, takeWhile_urgent_append hu hn, dropWhile_urgent_append hu hn]
  split
  · rw [List.append_assoc, List.singleton_append]
  · rfl

omit hu in
/-- The newest NORMAL notice is the last of them. -/
theorem dropNewestNormal_append (hne : ns ≠ []) : dropNewestNormal (us ++ ns) = us ++ ns.dropLast := by
  obtain ⟨rest, n, rfl⟩ := List.eq_nil_or_concat ns |>.resolve_left hne
  have hlast : urgent n = false := hn n (by simp)
  rw [dropNewestNormal, List.concat_eq_append, ← List.append_assoc, List.reverse_append, List.reverse_singleton,
    List.singleton_append, List.eraseP_cons_of_pos (by simp [hlast]), List.reverse_reverse, List.dropLast_concat]

theorem any_normal_append : (us ++ ns).any (fun m => !urgent m) = true ↔ ns ≠ [] := by
  rw [List.any_eq_true]
  constructor
  · rintro ⟨m, hm, hnot⟩ rfl
    rw [List.append_nil] at hm
    simp [hu m hm] at hnot
  · intro hne
    obtain ⟨m, hm⟩ := List.exists_mem_of_ne_nil ns hne
    exact ⟨m, List.mem_append_right _ hm, by simp [hn m hm]⟩

end

/-- A list in the order of R184 is its URGENT notices followed by its NORMAL ones. -/
theorem filter_urgent_append {items : List Notice}
    (h : List.Pairwise (fun m n => urgent n = true → urgent m = true) items) :
    items = items.filter urgent ++ items.filter (fun m => !urgent m) := by
  induction items with
  | nil => rfl
  | cons n rest ih =>
    obtain ⟨hfirst, hrest⟩ := List.pairwise_cons.1 h
    cases hu : urgent n with
    | true => simpa [hu] using ih hrest
    | false =>
      have hnone : ∀ m ∈ rest, urgent m = false := fun m hm =>
        Bool.eq_false_iff.2 fun hm' => nomatch hu.symm.trans (hfirst m hm hm')
      rw [List.filter_cons_of_neg (by simp [hu]), List.filter_cons_of_pos (by simp [hu]),
        List.filter_eq_nil_iff.2 fun m hm => by simp [hnone m hm],
        List.filter_eq_self.2 fun m hm => by simp [hnone m hm], List.nil_append]

/-! ## The arrival of a notice -/

section
variable {q : NoticeQueue} {us ns : List Notice} (hitems : q.items = us ++ ns) (hu : ∀ m ∈ us, urgent m = true)
  (hn : ∀ m ∈ ns, urgent m = false) (n : Notice)
include hitems hu hn

theorem arrive_room (hlen : q.items.length < 16) :
    arrive q n = { q with items := if urgent n then us ++ [n] ++ ns else us ++ ns ++ [n] } := by
  rw [arrive, if_pos (show q.items.length < Config.noticeLimit from hlen), hitems, placeNotice_append hu hn]

theorem arrive_full (hlen : q.items.length = 16) :
    arrive q n =
      { items := if urgent n = true ∧ ns ≠ [] then us ++ [n] ++ ns.dropLast else us ++ ns, overrun := true } := by
  rw [arrive, if_neg (show ¬ q.items.length < Config.noticeLimit by rw [hlen]; decide), hitems]
  have hany := any_normal_append hu hn
  by_cases h : urgent n = true ∧ ns ≠ []
  · have hdrop : ∀ m ∈ ns.dropLast, urgent m = false := fun m hm => hn m (List.mem_of_mem_dropLast hm)
    rw [if_pos h, if_pos (by rw [Bool.and_eq_true, hany]; exact h), dropNewestNormal_append hn h.2,
      placeNotice_append hu hdrop, if_pos h.1]
  · rw [if_neg h, if_neg (by rw [Bool.and_eq_true, hany]; exact h), ← hitems]

theorem arrive_queueLaw_of_split (hlaw : queueLaw q) : queueLaw (arrive q n) := by
  have hone : urgent n = true → ∀ m ∈ us ++ [n], urgent m = true := fun h m hm => by
    rcases List.mem_append.1 hm with hm | hm
    · exact hu m hm
    · rw [List.mem_singleton.1 hm, h]
  have hlen : us.length + ns.length = q.items.length := by rw [hitems, List.length_append]
  obtain ⟨hmax, -⟩ := hlaw
  by_cases hroom : q.items.length < 16
  · rw [arrive_room hitems hu hn n hroom]
    cases h : urgent n with
    | true =>
      rw [if_pos rfl]
      exact ⟨by simp only [List.length_append, List.length_singleton]; omega, pairwise_urgent_append (hone h) hn⟩
    | false =>
      have hlast : ∀ m ∈ ns ++ [n], urgent m = false := fun m hm => by
        rcases List.mem_append.1 hm with hm | hm
        · exact hn m hm
        · rw [List.mem_singleton.1 hm, h]
      rw [if_neg (by simp), List.append_assoc]
      exact ⟨by simp only [List.length_append, List.length_singleton]; omega, pairwise_urgent_append hu hlast⟩
  · rw [arrive_full hitems hu hn n (by omega)]
    by_cases h : urgent n = true ∧ ns ≠ []
    · have hpos := List.length_pos_iff.2 h.2
      rw [if_pos h]
      exact ⟨by simp only [List.length_append, List.length_singleton, List.length_dropLast]; omega,
        pairwise_urgent_append (hone h.1) (fun m hm => hn m (List.mem_of_mem_dropLast hm))⟩
    · rw [if_neg h]
      exact ⟨by simp only [List.length_append]; omega, pairwise_urgent_append hu hn⟩

end

/-- The URGENT and the NORMAL notices of a queue that keeps its law. -/
theorem queue_split {q : NoticeQueue} (hlaw : queueLaw q) :
    q.items = q.items.filter urgent ++ q.items.filter (fun m => !urgent m) ∧
      (∀ m ∈ q.items.filter urgent, urgent m = true) ∧
      ∀ m ∈ q.items.filter (fun m => !urgent m), urgent m = false :=
  ⟨filter_urgent_append hlaw.2, fun m hm => (List.mem_filter.1 hm).2, fun m hm => by simpa using (List.mem_filter.1 hm).2⟩

theorem arrive_queueLaw {q : NoticeQueue} (n : Notice) (hlaw : queueLaw q) : queueLaw (arrive q n) := by
  obtain ⟨hitems, hu, hn⟩ := queue_split hlaw
  exact arrive_queueLaw_of_split hitems hu hn n hlaw

/-! ## FETCH_NOTICE (R185) -/

theorem exec_fetchNotice_taken (p : Port) (s t : State) (status : Status) (payload : List Byte)
    (hf : portFree (s.port p))
    (hb : fetchNoticeBody p (s.beginTransaction p) = (t.beginTransaction p, status, payload)) :
    exec (.fetchNotice p) s = .next (t.withReply p 0x02 status payload) :=
  congrArg Host.Outcome.next
    (receive_eq_withReply (.fetchNotice p) p _ s t status payload hf (by simp [frameLength, fieldBytes])
      (by cases p <;> rfl) rfl hb)

theorem State.setQueue_beginTransaction (s : State) (p : Port) (q : NoticeQueue) :
    (s.beginTransaction p).modPort p (fun u => { u with queue := q }) =
      (s.modPort p (fun u => { u with queue := q })).beginTransaction p := by
  cases p <;> rfl

theorem State.queue_beginTransaction (s : State) (p : Port) :
    ((s.beginTransaction p).port p).queue = (s.port p).queue := by
  cases p <;> rfl

theorem levelByte (n : Notice) : u8 (levelCode (noticeLevel n.kind)) = [if urgent n then 1 else 0] := by
  rw [urgent]
  cases noticeLevel n.kind <;> rfl

theorem noticeBytes_eq (n : Notice) :
    noticeBytes n =
      u8 (noticeKindCode n.kind) ++ [if urgent n then 1 else 0] ++
        u8 ((if n.head.isSome then 1 else 0) + (if n.site.isSome then 2 else 0) + (if n.reason.isSome then 4 else 0) +
          (if n.station.isSome then 8 else 0) + (if n.lane.isSome then 16 else 0)) ++
        u8 ((n.head.map headCode).getD 255) ++ u8 (n.site.getD 255) ++ u8 (n.reason.getD 255) ++
        u16 (n.station.getD 0) ++ u8 (n.lane.getD 255) := by
  rw [noticeBytes, levelByte, bits8_five]
  rfl

/-- Settles O15: the arrival by the URGENT and NORMAL parts of the queue, and FETCH_NOTICE by its first notice. -/
theorem queueTakesAndGives : Obligations.QueueTakesAndGives := by
  refine ⟨fun q n us ns hlaw hus hns => ?_, fun p s hf => ⟨fun hnil => ?_, fun n rest hcons => ?_⟩⟩
  · obtain ⟨hitems, hu, hn⟩ := queue_split hlaw
    rw [← hus, ← hns] at hitems
    rw [← hus] at hu
    rw [← hns] at hn
    refine ⟨arrive_queueLaw n hlaw, hitems, fun hlen => ?_, fun hlen => ?_⟩
    · rw [arrive_room hitems hu hn n hlen, hitems]
      exact ⟨rfl, rfl⟩
    · rw [arrive_full hitems hu hn n hlen, hitems]
      exact ⟨rfl, rfl⟩
  · refine exec_fetchNotice_taken p s _ _ _ hf ?_
    simp only [fetchNoticeBody, State.queue_beginTransaction, hnil, State.setQueue_beginTransaction, flag8_eq]
  · refine exec_fetchNotice_taken p s _ _ _ hf ?_
    simp only [fetchNoticeBody, State.queue_beginTransaction, hcons, State.setQueue_beginTransaction, flag8_eq,
      noticeBytes_eq]

end Sys2Proof.Machine
end

section
/-! PROOF. WRITE_SITE, CLEAR_SITE and WRITE_PINS (R6 to R9). -/

namespace Sys2Proof.Machine

/-! ## What an invalidation leaves while no transfer is open -/

theorem State.invalidateSpan_frame {u : State} (hu : u.cell.transfer = none) (span : Nat × Nat) :
    u.invalidateSpan span =
      { u with records := (u.invalidateSpan span).records, verdicts := (u.invalidateSpan span).verdicts } := by
  obtain ⟨⟨tr, hframe, htr⟩, -⟩ := u.invalidateSpan_emptied span
  rw [htr hu, ← hu] at hframe
  exact hframe

theorem State.invalidateSite_frame {u : State} (hu : u.cell.transfer = none) (i : Nat) :
    u.invalidateSite i =
      { u with records := (u.invalidateSite i).records, verdicts := (u.invalidateSite i).verdicts } := by
  have hframe := u.invalidateSite_eq i
  rw [hu, Option.map_none, ← hu] at hframe
  exact hframe

theorem Reached.congr {u v : State} (h : ∀ i, u.site i = v.site i) {span : Nat × Nat} {i : Nat}
    (hr : Reached u span i) : Reached v span i := by
  induction hr with
  | direct i k hi hd hs hk => exact .direct i k hi (h i ▸ hd) hs (h i ▸ hk)
  | chain i j k _ hj hd hs hk ih => exact .chain i j k ih hj (h j ▸ hd) (h i ▸ hs) (h j ▸ hk)

theorem Emptied.congr {u u' s s' t t' : State} {span : Nat × Nat} {named : Option Nat} (h : Emptied u span named s t)
    (hu : ∀ i, u.site i = u'.site i) (hrs : ∀ i, s.record i = s'.record i) (hvs : ∀ k, s.verdict k = s'.verdict k)
    (hrt : ∀ i, t.record i = t'.record i) (hvt : ∀ k, t.verdict k = t'.verdict k) : Emptied u' span named s' t' := by
  have hreach : ∀ i, Reached u' span i ↔ Reached u span i := fun i =>
    ⟨Reached.congr fun j => (hu j).symm, Reached.congr hu⟩
  refine ⟨fun i hi => ?_, fun i hi => ?_, fun k hk => ?_, fun k hk => ?_⟩
  · rw [hreach] at hi
    rw [← hrt, h.recordGone i hi]
  · rw [hreach] at hi
    rw [← hrt, h.recordKept i hi, hrs]
  · simp only [hreach, ← hu] at hk
    rw [← hvt, h.verdictGone k hk]
  · simp only [hreach, ← hu] at hk
    rw [← hvt, h.verdictKept k hk, hvs]

section
variable {u s v t : State} {span : Nat × Nat} {i : Nat}

/-- A site emptied before the invalidation of its own span is named by it. -/
theorem Emptied.named_before (h : Emptied u span none v t)
    (hrec : ∀ j, v.record j = if j = i then PressRecord.emptyForm else s.record j)
    (hver : ∀ k, v.verdict k = if inSpan span k then .noVerdict else s.verdict k) : Emptied u span (some i) s t := by
  refine ⟨fun j hj => ?_, fun j hj => ?_, h.verdictGone, fun k hk => ?_⟩
  · by_cases hr : Reached u span j
    · exact h.recordGone j (.inr hr)
    · have hji : j = i := Option.some.inj (hj.resolve_right hr)
      rw [h.recordKept j (by simp [hr]), hrec, if_pos hji]
  · rw [not_or, Option.some_inj] at hj
    rw [h.recordKept j (by simp [hj.2]), hrec, if_neg hj.1]
  · rw [h.verdictKept k hk, hver, if_neg (not_or.1 hk).1]

/-- So is a site emptied after it. -/
theorem Emptied.named_after (h : Emptied u span none s v)
    (hrec : ∀ j, t.record j = if j = i then PressRecord.emptyForm else v.record j)
    (hver : ∀ k, t.verdict k = if inSpan span k then .noVerdict else v.verdict k) : Emptied u span (some i) s t := by
  refine ⟨fun j hj => ?_, fun j hj => ?_, fun k hk => ?_, fun k hk => ?_⟩
  · rw [hrec]
    split
    · rfl
    · next hji => exact h.recordGone j (.inr (hj.resolve_left fun he => hji (Option.some.inj he)))
  · rw [not_or, Option.some_inj] at hj
    rw [hrec, if_neg hj.1, h.recordKept j (by simp [hj.2])]
  · rw [hver]
    split
    · rfl
    · exact h.verdictGone k hk
  · rw [hver, if_neg (not_or.1 hk).1, h.verdictKept k hk]

end

/-! ## WRITE_SITE and CLEAR_SITE -/

theorem exec_writeSite_taken {s : State} (site : Byte) (f : SiteFields) (hf : portFree s.cell) :
    exec (.writeSite .cell site f) s = .next
      ((writeSiteBody site f (s.beginTransaction .cell)).1.answer .cell 0x12
        (writeSiteBody site f (s.beginTransaction .cell)).2.1 (writeSiteBody site f (s.beginTransaction .cell)).2.2) :=
  congrArg Host.Outcome.next
    (receive_taken (.writeSite .cell site f) .cell _ s hf
      (by simp [frameLength, fieldBytes, SiteFields.bytes, le16, le32]) rfl rfl)

theorem exec_clearSite_taken {s : State} (site : Byte) (hf : portFree s.cell) :
    exec (.clearSite .cell site) s = .next
      ((clearSiteBody site (s.beginTransaction .cell)).1.answer .cell 0x13
        (clearSiteBody site (s.beginTransaction .cell)).2.1 (clearSiteBody site (s.beginTransaction .cell)).2.2) :=
  congrArg Host.Outcome.next
    (receive_taken (.clearSite .cell site) .cell _ s hf (by simp [frameLength, fieldBytes]) rfl rfl)

theorem siteFieldsBad_iff (site : Byte) (f : SiteFields) :
    siteFieldsBad site f = true ↔
      63 < site.toNat ∨ 7 < f.toolCode.toNat ∨ f.seatDepth.toNat < 100 ∨ 6000 < f.seatDepth.toNat ∨
        1000 < f.seatTolerance.toNat := decide_eq_true_iff

section
variable {s : State} {site : Byte} {f : SiteFields}

theorem writeSiteBody_active (hm : s.map.mode = .active) : writeSiteBody site f s = (s, .mapState, []) := if_pos hm

theorem writeSiteBody_range (hm : s.map.mode = .edit) (hb : siteFieldsBad site f = true) :
    writeSiteBody site f s = (s, .range, []) := by
  rw [writeSiteBody, if_neg (by simp [hm]), if_pos hb]

theorem writeSiteBody_stored (hm : s.map.mode = .edit) (hb : ¬ siteFieldsBad site f = true) :
    writeSiteBody site f s =
      (((s.setSite site.toNat (writtenSite f)).invalidateSite site.toNat).invalidateSpan (pinSpan (writtenSite f)), .ok,
        []) := by
  rw [writeSiteBody, if_neg (by simp [hm]), if_neg hb]

theorem clearSiteBody_active (hm : s.map.mode = .active) : clearSiteBody site s = (s, .mapState, []) := if_pos hm

theorem clearSiteBody_range (hm : s.map.mode = .edit) (hr : 63 < site.toNat) :
    clearSiteBody site s = (s, .range, []) := by
  rw [clearSiteBody, if_neg (by simp [hm]), if_pos (show Config.siteCount ≤ site.toNat from hr)]

theorem clearSiteBody_cleared (hm : s.map.mode = .edit) (hr : ¬ 63 < site.toNat) :
    clearSiteBody site s =
      (((s.invalidateSpan (pinSpan (s.site site.toNat))).invalidateSite site.toNat).setSite site.toNat Site.undefined,
        .ok, []) := by
  rw [clearSiteBody, if_neg (by simp [hm]), if_neg (show ¬ Config.siteCount ≤ site.toNat from hr)]

end

/-- A site written, with what its writing empties. -/
theorem writtenSite_emptied {u : State} (hu : u.cell.transfer = none) (i : Nat) (x : Site) {t : State}
    (ht : t = ((u.setSite i x).invalidateSite i).invalidateSpan (pinSpan x)) :
    t = { u.setSite i x with records := t.records, verdicts := t.verdicts } ∧ Emptied t (pinSpan x) (some i) u t := by
  have hset : (u.setSite i x).cell.transfer = none := hu
  have hsite := State.invalidateSite_frame hset i
  have hspan : t = _ := ht.trans (State.invalidateSpan_frame (show ((u.setSite i x).invalidateSite i).cell.transfer = none by
    rw [hsite]; exact hset) (pinSpan x))
  rw [← ht, hsite] at hspan
  have hown : (u.setSite i x).site i = x := by rw [State.setSite_site, if_pos rfl]
  have hemptied := (((u.setSite i x).invalidateSite i).invalidateSpan_emptied (pinSpan x)).2
  rw [← ht] at hemptied
  refine ⟨hspan, (hemptied.congr (u' := t) (fun j => ?_) (fun _ => rfl) (fun _ => rfl) (fun _ => rfl)
    fun _ => rfl).named_before (fun j => ?_) fun k => ?_⟩
  · rw [hspan]
    rfl
  · exact State.invalidateSite_record _ i j
  · rw [State.invalidateSite_verdict, hown]
    rfl

/-- Settles O16: the refusals of R6, and the site stored with what it empties, judged on the map that holds it. -/
theorem writeSiteStores : Obligations.WriteSiteStores := by
  intro s site f hf
  have hmap : (s.beginTransaction .cell).map = s.map := State.beginTransaction_map s _
  refine ⟨fun hm => ?_, fun hm => ?_⟩
  · rw [exec_writeSite_taken site f hf, writeSiteBody_active (hmap ▸ hm), State.answer_beginTransaction]
  by_cases hb : siteFieldsBad site f = true
  · rw [if_pos ((siteFieldsBad_iff site f).1 hb), exec_writeSite_taken site f hf, writeSiteBody_range (hmap ▸ hm) hb,
      State.answer_beginTransaction]
  · rw [if_neg (mt (siteFieldsBad_iff site f).2 hb), exec_writeSite_taken site f hf,
      writeSiteBody_stored (hmap ▸ hm) hb]
    obtain ⟨t, ht⟩ : ∃ t, t = (((s.beginTransaction .cell).setSite site.toNat (writtenSite f)).invalidateSite
      site.toNat).invalidateSpan (pinSpan (writtenSite f)) := ⟨_, rfl⟩
    obtain ⟨hframe, hemptied⟩ := writtenSite_emptied (u := s.beginTransaction .cell) hf.2 site.toNat (writtenSite f) ht
    have hsites : ∀ i, t.site i = if i = site.toNat then writtenSite f else s.site i := fun i => by
      rw [hframe]
      exact ((s.beginTransaction .cell).setSite_site site.toNat i (writtenSite f)).trans
        (by rw [State.beginTransaction_site])
    rw [← ht]
    refine ⟨_, rfl, ?_, ?_, fun i hi => ?_, hemptied.congr (fun _ => rfl) (fun _ => rfl) (fun _ => rfl) (fun _ => rfl)
      fun _ => rfl⟩
    · rw [hframe]
      rfl
    · rw [State.answer_site, hsites, if_pos rfl]
      rfl
    · rw [State.answer_site, hsites, if_neg hi]

/-- A site cleared, with what its clearing empties. -/
theorem clearedSite_emptied {u : State} (hu : u.cell.transfer = none) (i : Nat) {t : State}
    (ht : t = ((u.invalidateSpan (pinSpan (u.site i))).invalidateSite i).setSite i Site.undefined) :
    t = { u.setSite i Site.undefined with records := t.records, verdicts := t.verdicts } ∧
      Emptied u (pinSpan (u.site i)) (some i) u t := by
  have hspan := State.invalidateSpan_frame hu (pinSpan (u.site i))
  have hsite := State.invalidateSite_frame (show (u.invalidateSpan (pinSpan (u.site i))).cell.transfer = none by
    rw [hspan]; exact hu) i
  have hown : (u.invalidateSpan (pinSpan (u.site i))).site i = u.site i := by
    rw [hspan]
    rfl
  have hframe : t = _ := ht.trans (by rw [hsite, hspan])
  refine ⟨?_, (u.invalidateSpan_emptied (pinSpan (u.site i))).2.named_after (fun j => ?_) fun k => ?_⟩
  · rw [hframe]
    rfl
  · rw [ht, State.setSite_record, State.invalidateSite_record]
  · rw [ht, State.setSite_verdict, State.invalidateSite_verdict, hown]

/-- Settles O17: the refusals of R7, and the site cleared with what it empties, judged on the map before. -/
theorem clearSiteUndefines : Obligations.ClearSiteUndefines := by
  intro s site hf
  have hmap : (s.beginTransaction .cell).map = s.map := State.beginTransaction_map s _
  refine ⟨fun hm => ?_, fun hm => ?_⟩
  · rw [exec_clearSite_taken site hf, clearSiteBody_active (hmap ▸ hm), State.answer_beginTransaction]
  by_cases hr : 63 < site.toNat
  · rw [if_pos hr, exec_clearSite_taken site hf, clearSiteBody_range (hmap ▸ hm) hr, State.answer_beginTransaction]
  · rw [if_neg hr, exec_clearSite_taken site hf, clearSiteBody_cleared (hmap ▸ hm) hr]
    obtain ⟨t, ht⟩ : ∃ t, t = (((s.beginTransaction .cell).invalidateSpan (pinSpan ((s.beginTransaction .cell).site
      site.toNat))).invalidateSite site.toNat).setSite site.toNat Site.undefined := ⟨_, rfl⟩
    obtain ⟨hframe, hemptied⟩ := clearedSite_emptied (u := s.beginTransaction .cell) hf.2 site.toNat ht
    have hsites : ∀ i, t.site i = if i = site.toNat then Site.undefined else s.site i := fun i => by
      rw [hframe]
      exact ((s.beginTransaction .cell).setSite_site site.toNat i Site.undefined).trans
        (by rw [State.beginTransaction_site])
    rw [← ht]
    refine ⟨_, rfl, ?_, ?_, fun i hi => ?_, hemptied.congr (fun _ => rfl) (fun _ => rfl) (fun _ => rfl) (fun _ => rfl)
      fun _ => rfl⟩
    · rw [hframe]
      rfl
    · rw [State.answer_site, hsites, if_pos rfl]
      rfl
    · rw [State.answer_site, hsites, if_neg hi]

end Sys2Proof.Machine
end

section
/-! PROOF. WRITE_PINS (R8, R9). -/

namespace Sys2Proof.Machine

theorem State.writePins_site (s : State) (first : Nat) (entries : List PinEntry) (i : Nat) :
    (s.writePins first entries).site i = s.site i := by
  obtain ⟨-, hmap⟩ := s.writePins_map entries first
  rw [State.site, hmap, State.site]

theorem State.writePins_pin_other (entries : List PinEntry) : ∀ (s : State) (first k : Nat),
    ¬ inSpan (first, entries.length) k → (s.writePins first entries).pin k = s.pin k := by
  induction entries with
  | nil => exact fun _ _ _ _ => rfl
  | cons e es ih =>
    intro s first k hk
    simp only [inSpan, List.length_cons] at hk
    rw [State.writePins, ih _ _ _ (by simp only [inSpan]; omega)]
    exact (Table.get_set _ _ _ _ _).trans (if_neg (by omega))

/-- The entries stand in order from the first index (R8). -/
theorem State.writePins_pin (entries : List PinEntry) : ∀ (s : State) (first k : Nat) (e : PinEntry),
    entries[k]? = some e → (s.writePins first entries).pin (first + k) = entryPin e := by
  induction entries with
  | nil => exact fun _ _ _ _ h => by simp at h
  | cons x xs ih =>
    intro s first k e h
    cases k with
    | zero =>
      obtain rfl : x = e := by simpa using h
      rw [State.writePins, State.writePins_pin_other xs _ _ _ (by simp only [inSpan]; omega)]
      exact (Table.get_set _ _ _ _ _).trans (if_pos (Nat.add_zero first))
    | succ k =>
      rw [State.writePins, show first + (k + 1) = first + 1 + k by omega]
      exact ih _ _ _ _ (by simpa using h)

theorem length_flatMap_pinEntryBytes (entries : List PinEntry) :
    (entries.flatMap PinEntry.bytes).length = 8 * entries.length := by
  induction entries with
  | nil => rfl
  | cons e es ih =>
    rw [List.flatMap_cons, List.length_append, ih, List.length_cons, show e.bytes.length = 8 from rfl]
    omega

theorem exec_writePins_taken {s : State} (first : Half) (count : Byte) (entries : List PinEntry) (hf : portFree s.cell)
    (hcount : entries.length = count.toNat) (hfits : entries.length ≤ 31) :
    exec (.writePins .cell first count entries) s = .next
      ((writePinsBody first count entries (s.beginTransaction .cell)).1.answer .cell 0x14
        (writePinsBody first count entries (s.beginTransaction .cell)).2.1
        (writePinsBody first count entries (s.beginTransaction .cell)).2.2) := by
  have hlength : frameLength (.writePins .cell first count entries) = 7 + 8 * entries.length := by
    rw [frameLength, fieldBytes, List.length_append, length_flatMap_pinEntryBytes, ← Nat.add_assoc]
    rfl
  exact congrArg Host.Outcome.next
    (receive_taken (.writePins .cell first count entries) .cell _ s hf (by omega) rfl
      (by simpa [lengthAgrees] using hcount))

theorem pinEntryBad_iff (e : PinEntry) :
    pinEntryBad e = true ↔ 15 < e.lane.toNat ∨ 3 < e.pinType.toNat ∨ 7 < e.holeClass.toNat ∨ 2000 < e.entryOffset.toNat :=
  decide_eq_true_iff

section
variable {s : State} {first : Half} {count : Byte} {entries : List PinEntry} (hm : s.map.mode = .edit)
include hm

theorem writePinsBody_range
    (hr : count.toNat < 1 ∨ 16 < count.toNat ∨ Config.pinCount < first.toNat + count.toNat ∨
      entries.any pinEntryBad = true) : writePinsBody first count entries s = (s, .range, []) := by
  rw [writePinsBody, if_neg (by simp [hm]), if_pos hr]

theorem writePinsBody_stored
    (hr : ¬ (count.toNat < 1 ∨ 16 < count.toNat ∨ Config.pinCount < first.toNat + count.toNat ∨
      entries.any pinEntryBad = true)) :
    writePinsBody first count entries s =
      ((s.writePins first.toNat entries).invalidateSpan (first.toNat, entries.length), .ok, []) := by
  rw [writePinsBody, if_neg (by simp [hm]), if_neg hr]

end

/-- Pins written, with what their writing empties. -/
theorem writtenPins_emptied {u : State} (hu : u.cell.transfer = none) (first : Nat) (entries : List PinEntry) {t : State}
    (ht : t = (u.writePins first entries).invalidateSpan (first, entries.length)) :
    t = { u.writePins first entries with records := t.records, verdicts := t.verdicts } ∧
      Emptied u (first, entries.length) none u t := by
  have hframe := (u.writePins_map entries first).1
  have hw : (u.writePins first entries).cell.transfer = none := by rw [hframe]; exact hu
  have hemptied := ((u.writePins first entries).invalidateSpan_emptied (first, entries.length)).2
  rw [← ht] at hemptied
  refine ⟨ht.trans ((State.invalidateSpan_frame hw _).trans (by rw [ht])), hemptied.congr
    (u.writePins_site first entries) (fun j => ?_) (fun k => ?_) (fun _ => rfl) fun _ => rfl⟩
  · rw [hframe]
    rfl
  · rw [hframe]
    rfl

/-- Settles O18: the refusals of R8, and the pins stored with what they empty, judged on the same sites. -/
theorem writePinsStores : Obligations.WritePinsStores := by
  intro s first count entries hf hcount hfits
  have hmap : (s.beginTransaction .cell).map = s.map := State.beginTransaction_map s _
  have hpins : Config.pinCount = 4096 := rfl
  refine ⟨fun hm => ?_, fun hm => ⟨fun hr => ?_, fun h1 h16 hlast hgood => ?_⟩⟩
  · have hbody : writePinsBody first count entries (s.beginTransaction .cell) = (s.beginTransaction .cell, .mapState, []) :=
      if_pos (hmap ▸ hm)
    rw [exec_writePins_taken first count entries hf hcount hfits, hbody, State.answer_beginTransaction]
  · rw [exec_writePins_taken first count entries hf hcount hfits, writePinsBody_range (hmap ▸ hm) ?_,
      State.answer_beginTransaction]
    rcases hr with hr | hr | hr | ⟨e, he, hr⟩
    · omega
    · omega
    · omega
    · exact .inr (.inr (.inr (List.any_eq_true.2 ⟨e, he, (pinEntryBad_iff e).2 hr⟩)))
  · have hbody := writePinsBody_stored (s := s.beginTransaction .cell) (first := first) (count := count)
      (entries := entries) (hmap ▸ hm) (by
        rintro (h | h | h | h)
        · omega
        · omega
        · omega
        · obtain ⟨e, he, hbad⟩ := List.any_eq_true.1 h
          have := hgood e he
          rcases (pinEntryBad_iff e).1 hbad with hbad | hbad | hbad | hbad <;> omega)
    rw [exec_writePins_taken first count entries hf hcount hfits, hbody]
    obtain ⟨t, ht⟩ : ∃ t, t = ((s.beginTransaction .cell).writePins first.toNat entries).invalidateSpan
      (first.toNat, entries.length) := ⟨_, rfl⟩
    obtain ⟨hframe, hemptied⟩ := writtenPins_emptied (u := s.beginTransaction .cell) hf.2 first.toNat entries ht
    obtain ⟨hw, hwmap⟩ := (s.beginTransaction .cell).writePins_map entries first.toNat
    have hpin : ∀ k, t.pin k = ((s.beginTransaction .cell).writePins first.toNat entries).pin k := fun k => by
      rw [hframe]
      rfl
    rw [← ht]
    refine ⟨_, rfl, ?_, fun k e he => ?_, fun k hk => ?_, hemptied.congr (fun _ => rfl) (fun _ => rfl) (fun _ => rfl)
      (fun _ => rfl) fun _ => rfl⟩
    · rw [hframe, hw, hwmap]
      rfl
    · rw [State.answer_pin, hpin]
      exact State.writePins_pin entries _ _ k e he
    · rw [State.answer_pin, hpin, State.writePins_pin_other entries _ _ k hk, State.beginTransaction_pin]

end Sys2Proof.Machine
end

section
/-! PROOF. MAP_ACTIVATE (R11 to R13). -/

namespace Sys2Proof.Machine

/-! ## The checks of a site -/

theorem rangesMeet_iff (s : State) (i j : Nat) : rangesMeet (s.site i) (s.site j) = true ↔ rangesShare s i j :=
  spansMeet_iff _ _

theorem State.definedSites_find? (s : State) (q : Nat → Bool) :
    s.definedSites.find? q = (List.range 64).find? (fun i => siteDefined (s.site i) && q i) := by
  rw [State.definedSites, List.find?_filter]
  simp only [Bool.decide_and, Bool.decide_eq_true]
  rfl

theorem definedAt_iff (s : State) (i : Nat) : definedAt s i ↔ i ∈ List.range 64 ∧ siteDefined (s.site i) = true := by
  rw [List.mem_range, siteDefined, decide_eq_true_eq]

/-- A search over the defined sites finds the lowest of them that fits. -/
theorem State.definedSites_find?_eq_some {s : State} {q : Nat → Bool} {i : Nat} (hi : definedAt s i) (hq : q i = true)
    (hlow : ∀ m, m < i → definedAt s m → q m = false) : s.definedSites.find? q = some i := by
  rw [State.definedSites_find?, List.find?_range_eq_some]
  refine ⟨by simp [((definedAt_iff s i).1 hi).2, hq], List.mem_range.2 hi.1, fun m hm => ?_⟩
  by_cases hd : siteDefined (s.site m) = true
  · simp [hlow m hm ((definedAt_iff s m).2 ⟨List.mem_range.2 (hm.trans hi.1), hd⟩)]
  · simp [hd]

theorem State.definedSites_find?_eq_none {s : State} {q : Nat → Bool} (h : ∀ i, definedAt s i → q i = false) :
    s.definedSites.find? q = none := by
  rw [List.find?_eq_none]
  intro i hi
  have hd : definedAt s i := (definedAt_iff s i).2 (List.mem_filter.1 hi)
  simp [h i hd]

theorem State.overlapping_eq_some {s : State} {i j : Nat} (hj : definedAt s j) (hne : j ≠ i) (hs : rangesShare s i j)
    (hlow : ∀ m, m < j → definedAt s m → m ≠ i → ¬ rangesShare s i m) : s.overlapping i = some j := by
  refine State.definedSites_find?_eq_some hj (by simp [hne, (rangesMeet_iff s i j).2 hs]) fun m hm hd => ?_
  by_cases hmi : m = i
  · simp [hmi]
  · simp [hmi, mt (rangesMeet_iff s i m).1 (hlow m hm hd hmi)]

theorem State.overlapping_eq_none {s : State} {i : Nat} (h : ∀ j, definedAt s j → j ≠ i → ¬ rangesShare s i j) :
    s.overlapping i = none := by
  refine State.definedSites_find?_eq_none fun m hd => ?_
  by_cases hmi : m = i
  · simp [hmi]
  · simp [hmi, mt (rangesMeet_iff s i m).1 (h m hd hmi)]

theorem State.anyLive_iff (s : State) (n : Nat) : ∀ first,
    s.anyLive first n = true ↔ ∃ k, inSpan (first, n) k ∧ (s.pin k).live = true := by
  induction n with
  | zero => exact fun first => ⟨nofun, fun ⟨k, hk, _⟩ => by simp only [inSpan] at hk; omega⟩
  | succ n ih =>
    intro first
    rw [State.anyLive, Bool.or_eq_true, ih]
    constructor
    · rintro (h | ⟨k, hk, hl⟩)
      · exact ⟨first, by simp only [inSpan]; omega, h⟩
      · exact ⟨k, by simp only [inSpan] at hk ⊢; omega, hl⟩
    · rintro ⟨k, hk, hl⟩
      by_cases hkf : k = first
      · exact .inl (hkf ▸ hl)
      · exact .inr ⟨k, by simp only [inSpan] at hk ⊢; omega, hl⟩

/-- A site that fails a check is reported with it. -/
theorem State.checkSite_fails {s : State} {i : Nat} {check : MapCheck} {other : Option Nat}
    (h : SiteFails s i check other) : s.checkSite i = some (check, other) := by
  have hpins : Config.pinCount = 4096 := rfl
  unfold State.checkSite
  cases h with
  | pinRange h1 => exact if_pos h1
  | pinCount h1 h2 => rw [if_neg (by omega), if_pos (by omega)]
  | overlap j h1 h2 hj hne h3 hlow =>
    rw [if_neg (by omega), if_neg (by omega), State.overlapping_eq_some hj hne h3 hlow]
  | noLivePin h1 h2 h3 h4 =>
    have hdead : ¬ s.anyLive (s.site i).firstPin (s.site i).pinCount = true := by
      rw [State.anyLive_iff]
      rintro ⟨k, hk, hl⟩
      exact nomatch (h4 k hk).symm.trans hl
    simp only [State.overlapping_eq_none h3, if_neg hdead]
    rw [if_neg (by omega), if_neg (by omega)]

theorem State.checkSite_passes {s : State} {i : Nat} (h : SitePasses s i) : s.checkSite i = none := by
  obtain ⟨hrange, hcount, halone, hlive⟩ := h
  have hpins : Config.pinCount = 4096 := rfl
  simp only [State.checkSite, State.overlapping_eq_none halone, if_pos ((s.anyLive_iff _ _).2 hlive)]
  rw [if_neg (by omega), if_neg (by omega)]

/-- The first failing site of a list is the first for which a check is reported. -/
theorem State.firstFailing_eq (s : State) (is : List Nat) :
    s.firstFailing is =
      (is.find? (fun i => (s.checkSite i).isSome)).bind (fun i => (s.checkSite i).map (fun c => (i, c))) := by
  induction is with
  | nil => rfl
  | cons i is ih =>
    rw [State.firstFailing, List.find?_cons]
    cases hc : s.checkSite i with
    | none => exact ih
    | some c => simp [hc]

/-- The checks read nothing but the map. -/
theorem State.firstFailing_congr {s u : State} (h : u.map = s.map) : u.firstFailing u.definedSites = s.firstFailing s.definedSites := by
  have hsite : ∀ i, u.site i = s.site i := fun i => by rw [State.site, h, State.site]
  have hpin : ∀ i, u.pin i = s.pin i := fun i => by rw [State.pin, h, State.pin]
  have hdefined : u.definedSites = s.definedSites := by simp only [State.definedSites, hsite]
  have hlive : ∀ n first, u.anyLive first n = s.anyLive first n := by
    intro n
    induction n with
    | zero => exact fun _ => rfl
    | succ n ih => exact fun first => by rw [State.anyLive, State.anyLive, hpin, ih]
  have hcheck : ∀ i, u.checkSite i = s.checkSite i := fun i => by
    simp only [State.checkSite, State.overlapping, hsite, hlive, hdefined]
  simp only [State.firstFailing_eq, hcheck, hdefined]

/-! ## MAP_ACTIVATE -/

theorem exec_mapActivate_taken (s t : State) (status : Status) (payload : List Byte) (hf : portFree s.cell)
    (hb : mapActivateBody (s.beginTransaction .cell) = (t.beginTransaction .cell, status, payload)) :
    exec (.mapActivate .cell) s = .next (t.withReply .cell 0x11 status payload) :=
  congrArg Host.Outcome.next
    (receive_eq_withReply (.mapActivate .cell) .cell _ s t status payload hf (by simp [frameLength, fieldBytes]) rfl rfl
      hb)

theorem State.forcedOn_iff (s : State) :
    s.forcedOn = true ↔ s.headA.lines.override = .forceOn ∨ s.headB.lines.override = .forceOn := by
  rw [State.forcedOn, Bool.or_eq_true, decide_eq_true_eq, decide_eq_true_eq]

theorem State.length_definedSites (s : State) :
    s.definedSites.length = (List.range 64).countP (fun i => decide ((s.site i).state ≠ SiteState.unused)) :=
  List.countP_eq_length_filter.symm

section
variable {s : State} (hm : s.map.mode = .edit)
include hm

theorem mapActivateBody_forced (hforced : s.forcedOn = true) : mapActivateBody s = (s, .lineForced, []) := by
  rw [mapActivateBody, if_neg (by simp [hm]), if_pos hforced]

theorem mapActivateBody_invalid (hforced : ¬ s.forcedOn = true) {i : Nat} {check : MapCheck} {other : Option Nat}
    (hfirst : s.firstFailing s.definedSites = some (i, check, other)) :
    mapActivateBody s = (s, .invalidMap, u8 i ++ u8 (mapCheckCode check) ++ opt8 other) := by
  rw [mapActivateBody, if_neg (by simp [hm]), if_neg hforced, hfirst]

theorem mapActivateBody_taken (hforced : ¬ s.forcedOn = true) (hfirst : s.firstFailing s.definedSites = none) :
    mapActivateBody s =
      ({ s with map := { s.map with mode := .active, generation := s.map.generation + 1 } }, .ok,
        le16 (s.map.generation + 1) ++ u8 s.definedSites.length) := by
  rw [mapActivateBody, if_neg (by simp [hm]), if_neg hforced, hfirst]

end

/-- Settles O20: the refusals in their order, the first failing site by a search over the defined sites. -/
theorem activationJudged : Obligations.ActivationJudged := by
  intro s hf
  have hmap : (s.beginTransaction .cell).map = s.map := State.beginTransaction_map s _
  refine ⟨fun hm => exec_mapActivate_taken s s _ _ hf (if_pos (hmap ▸ hm)), fun hm hforced => ?_,
    fun hm hA hB => ⟨fun i check other hi hbefore hfails => ?_, fun hpass => ?_⟩⟩
  · exact exec_mapActivate_taken s s _ _ hf
      (mapActivateBody_forced (s := s.beginTransaction .cell) (hmap ▸ hm) (s.forcedOn_iff.2 hforced))
  · have hforced : ¬ s.forcedOn = true := by
      rw [State.forcedOn_iff]
      exact not_or.2 ⟨hA, hB⟩
    have hcheck := State.checkSite_fails hfails
    have hfind : s.definedSites.find? (fun i => (s.checkSite i).isSome) = some i :=
      State.definedSites_find?_eq_some hi (by simp [hcheck]) fun j hj hd => by
        simp [State.checkSite_passes (hbefore j hj hd)]
    have hfirst : s.firstFailing s.definedSites = some (i, check, other) := by
      rw [State.firstFailing_eq, hfind, Option.bind_some, hcheck, Option.map_some]
    exact exec_mapActivate_taken s s _ _ hf
      (mapActivateBody_invalid (s := s.beginTransaction .cell) (hmap ▸ hm) hforced
        ((State.firstFailing_congr hmap).trans hfirst))
  · have hforced : ¬ s.forcedOn = true := by
      rw [State.forcedOn_iff]
      exact not_or.2 ⟨hA, hB⟩
    have hfirst : s.firstFailing s.definedSites = none := by
      rw [State.firstFailing_eq, State.definedSites_find?_eq_none fun i hd => by
        simp [State.checkSite_passes (hpass i hd)]]
      rfl
    have hbody := mapActivateBody_taken (s := s.beginTransaction .cell) (hmap ▸ hm) hforced
      ((State.firstFailing_congr hmap).trans hfirst)
    rw [State.length_definedSites] at hbody
    exact exec_mapActivate_taken s _ _ _ hf hbody

end Sys2Proof.Machine
end

section
/-! PROOF. WRITE_PROFILE (R63 to R65). -/

namespace Sys2Proof.Machine

/-! ## The first breakpoint that fails a check (R64) -/

/-- The first of its four conditions that a breakpoint fails, given the depth of the one before. -/
def pointFault (before : Option Nat) (b : Breakpoint) : Option ProfileFault :=
  if 6000 < b.depth then some .depthRange
  else if (before.map (fun d => decide (b.depth ≤ d))).getD false then some .depthOrder
  else if 20000 < b.lower ∨ 20000 < b.upper then some .forceRange
  else if b.upper < b.lower then some .boundsOrder
  else none

theorem pointsFault_cons (k : Nat) (before : Option Nat) (b : Breakpoint) (bs : List Breakpoint) :
    pointsFault k before (b :: bs) =
      match pointFault before b with
      | some f => some (f, k)
      | none => pointsFault (k + 1) (some b.depth) bs := by
  unfold pointFault
  rw [pointsFault]
  by_cases h1 : 6000 < b.depth
  · simp only [if_pos h1]
  by_cases h2 : (before.map (fun d => decide (b.depth ≤ d))).getD false = true
  · simp only [if_neg h1, if_pos h2]
  by_cases h3 : 20000 < b.lower ∨ 20000 < b.upper
  · simp only [if_neg h1, if_neg h2, if_pos h3]
  by_cases h4 : b.upper < b.lower
  · simp only [if_neg h1, if_neg h2, if_neg h3, if_pos h4]
  · simp only [if_neg h1, if_neg h2, if_neg h3, if_neg h4]

/-- The fault at a place is judged on its breakpoint and the depth of the one before it. -/
theorem entryFault_append (pre : List Breakpoint) (b : Breakpoint) (bs : List Breakpoint) :
    entryFault (pre ++ b :: bs) pre.length = pointFault (pre.getLast?.map Breakpoint.depth) b := by
  have hget : (pre ++ b :: bs)[pre.length]? = some b := by simp
  have horder : (0 < pre.length ∧
      b.depth ≤ (((pre ++ b :: bs)[pre.length - 1]?).map Breakpoint.depth).getD 0) ↔
        ((pre.getLast?.map Breakpoint.depth).map (fun d => decide (b.depth ≤ d))).getD false = true := by
    rcases List.eq_nil_or_concat pre with rfl | ⟨rest, c, rfl⟩
    · simp
    · simp
  simp only [entryFault, hget, pointFault, horder]

theorem entryFault_length_le {points : List Breakpoint} {k : Nat} (hk : points.length ≤ k) : entryFault points k = none := by
  rw [entryFault, List.getElem?_eq_none hk]

theorem pointsFault_eq_some {k : Nat} {fault : ProfileFault} (bs : List Breakpoint) : ∀ pre : List Breakpoint,
    pre.length ≤ k → entryFault (pre ++ bs) k = some fault →
    (∀ m, pre.length ≤ m → m < k → entryFault (pre ++ bs) m = none) →
    pointsFault pre.length (pre.getLast?.map Breakpoint.depth) bs = some (fault, k) := by
  induction bs with
  | nil =>
    intro pre hk hfault _
    rw [entryFault_length_le (by simpa using hk)] at hfault
    cases hfault
  | cons b bs ih =>
    intro pre hk hfault hlow
    rw [pointsFault_cons, ← entryFault_append pre b bs]
    rcases Nat.eq_or_lt_of_le hk with rfl | hlt
    · rw [hfault]
    · rw [hlow pre.length le_rfl hlt]
      have hassoc : pre ++ [b] ++ bs = pre ++ b :: bs := by simp
      have hrest := ih (pre ++ [b]) (by simpa using hlt) (by rw [hassoc]; exact hfault) fun m hm hmk => by
        rw [hassoc]
        exact hlow m (by simp at hm; omega) hmk
      simpa using hrest

theorem pointsFault_eq_none (bs : List Breakpoint) : ∀ pre : List Breakpoint,
    (∀ m, pre.length ≤ m → entryFault (pre ++ bs) m = none) →
    pointsFault pre.length (pre.getLast?.map Breakpoint.depth) bs = none := by
  induction bs with
  | nil => exact fun _ _ => rfl
  | cons b bs ih =>
    intro pre hnone
    rw [pointsFault_cons, ← entryFault_append pre b bs, hnone pre.length le_rfl]
    have hrest := ih (pre ++ [b]) fun m hm => by
      rw [show pre ++ [b] ++ bs = pre ++ b :: bs by simp]
      exact hnone m (by simp at hm; omega)
    simpa using hrest

section
variable {count seatForce : Nat} {points : List Breakpoint}

theorem profileFault_count (h : count < 2 ∨ 8 < count) : profileFault count seatForce points = some (.count, none) :=
  if_pos h

variable (h2 : 2 ≤ count) (h8 : count ≤ 8)
include h2 h8

theorem profileFault_entry {k : Nat} {fault : ProfileFault} (hk : entryFault points k = some fault)
    (hlow : ∀ m, m < k → entryFault points m = none) : profileFault count seatForce points = some (fault, some k) := by
  have hpoints : pointsFault 0 none points = some (fault, k) :=
    pointsFault_eq_some points [] (Nat.zero_le k) hk fun m _ hm => hlow m hm
  rw [profileFault, if_neg (by omega), hpoints]

theorem profileFault_seatForce (hnone : ∀ k, entryFault points k = none) :
    profileFault count seatForce points =
      if seatForce < 1 ∨ 20000 < seatForce then some (.seatForce, none) else none := by
  have hpoints : pointsFault 0 none points = none := pointsFault_eq_none points [] fun m _ => hnone m
  rw [profileFault, if_neg (by omega), hpoints]

end

/-! ## The shadow bank -/

theorem otherBank_ne_iff (b c : Bank) : otherBank c = b ↔ b ≠ c := by cases b <;> cases c <;> simp [otherBank]

/-- A write of a shadow profile reads back, and leaves every other profile (R65, R66). -/
theorem profileAt_setShadow (s : State) (place : Nat) (p : Option Profile) (b : Bank) (k : Nat) :
    profileAt (s.setShadow place p).library b k =
      if b ≠ s.library.active ∧ k = place then p else profileAt s.library b k := by
  unfold State.setShadow profileAt roleBank
  cases hactive : s.library.active <;> cases b <;>
    simp [otherBank, setBank, bankOf, Table.get_set]

theorem setShadow_frame (s : State) (place : Nat) (p : Option Profile) :
    (s.setShadow place p).library =
      { s.library with bank0 := (s.setShadow place p).library.bank0, bank1 := (s.setShadow place p).library.bank1 } := by
  unfold State.setShadow
  cases roleBank s.library .shadow <;> rfl

theorem State.setShadow_beginTransaction (s : State) (q : Port) (place : Nat) (p : Option Profile) :
    (s.beginTransaction q).setShadow place p = (s.setShadow place p).beginTransaction q := by cases q <;> rfl

/-! ## WRITE_PROFILE -/

theorem length_flatMap_pointEntryBytes (entries : List PointEntry) :
    (entries.flatMap PointEntry.bytes).length = 6 * entries.length := by
  induction entries with
  | nil => rfl
  | cons e es ih =>
    rw [List.flatMap_cons, List.length_append, ih, List.length_cons, show e.bytes.length = 6 from rfl]
    omega

theorem exec_writeProfile_taken (s t : State) (pinType holeClass count : Byte) (seatForce : Half)
    (entries : List PointEntry) (status : Status) (payload : List Byte) (hf : portFree s.cell)
    (hcount : entries.length = count.toNat) (hfits : entries.length ≤ 41)
    (hb : writeProfileBody pinType holeClass count seatForce entries (s.beginTransaction .cell) =
      (t.beginTransaction .cell, status, payload)) :
    exec (.writeProfile .cell pinType holeClass count seatForce entries) s =
      .next (t.withReply .cell 0x20 status payload) := by
  have hlength : frameLength (.writeProfile .cell pinType holeClass count seatForce entries) = 9 + 6 * entries.length := by
    rw [frameLength, fieldBytes, List.length_append, length_flatMap_pointEntryBytes, ← Nat.add_assoc]
    rfl
  exact congrArg Host.Outcome.next
    (receive_eq_withReply (.writeProfile .cell pinType holeClass count seatForce entries) .cell _ s t status payload hf
      (by omega) rfl (by simpa [lengthAgrees] using hcount) hb)

theorem placeBad_iff (pinType holeClass : Byte) :
    placeBad pinType holeClass = true ↔ 3 < pinType.toNat ∨ 7 < holeClass.toNat := decide_eq_true_iff

section
variable {s : State} {pinType holeClass count : Byte} {seatForce : Half} {entries : List PointEntry}

theorem writeProfileBody_swapBusy (hswap : s.library.swapPending = true) :
    writeProfileBody pinType holeClass count seatForce entries s = (s, .swapBusy, []) := if_pos hswap

variable (hswap : s.library.swapPending = false)
include hswap

theorem writeProfileBody_place (hplace : placeBad pinType holeClass = true) :
    writeProfileBody pinType holeClass count seatForce entries s = (s, .range, [0, 255]) := by
  rw [writeProfileBody, if_neg (by simp [hswap]), if_pos hplace]
  rfl

variable (hplace : ¬ placeBad pinType holeClass = true)
include hplace

theorem writeProfileBody_fault {fault : ProfileFault} {k : Option Nat}
    (hfault : profileFault count.toNat seatForce.toNat (entries.map entryPoint) = some (fault, k)) :
    writeProfileBody pinType holeClass count seatForce entries s =
      (s, .range, u8 (profileFaultCode fault) ++ opt8 k) := by
  rw [writeProfileBody, if_neg (by simp [hswap]), if_neg hplace, hfault]

theorem writeProfileBody_stored
    (hfault : profileFault count.toNat seatForce.toNat (entries.map entryPoint) = none) :
    writeProfileBody pinType holeClass count seatForce entries s =
      (s.setShadow (profilePlace pinType.toNat holeClass.toNat)
        (some { points := entries.map entryPoint, seatForce := seatForce.toNat }), .ok, [pinType, holeClass, count]) := by
  rw [writeProfileBody, if_neg (by simp [hswap]), if_neg hplace, hfault]

end

/-- Settles O24: the refusals in their order, the breakpoints' by the first place that fails, and the profile stored. -/
theorem writeProfileJudged : Obligations.WriteProfileJudged := by
  intro s pinType holeClass count seatForce entries points i hf hcount hfits hpoints hi
  subst hi
  have hpoints' : entries.map entryPoint = points := hpoints.symm
  have hlib : (s.beginTransaction .cell).library = s.library := State.beginTransaction_library s _
  refine ⟨fun hswap => ?_, fun hswap hplace => ?_, fun hswap hp hc => ⟨fun hr => ?_, fun h2 h8 =>
    ⟨fun k fault hk hlow => ?_, fun hnone hforce => ?_, fun hnone hlo hhi => ?_⟩⟩⟩
  · exact exec_writeProfile_taken s s _ _ _ _ _ _ _ hf hcount hfits (writeProfileBody_swapBusy (hlib ▸ hswap))
  · exact exec_writeProfile_taken s s _ _ _ _ _ _ _ hf hcount hfits
      (writeProfileBody_place (hlib ▸ hswap) ((placeBad_iff _ _).2 hplace))
  all_goals have hplace : ¬ placeBad pinType holeClass = true := by rw [placeBad_iff]; omega
  · exact exec_writeProfile_taken s s _ _ _ _ _ _ _ hf hcount hfits
      (writeProfileBody_fault (hlib ▸ hswap) hplace (profileFault_count hr))
  · exact exec_writeProfile_taken s s _ _ _ _ _ _ _ hf hcount hfits
      (writeProfileBody_fault (s := s.beginTransaction .cell) (seatForce := seatForce) (hlib ▸ hswap) hplace
        (hpoints' ▸ profileFault_entry h2 h8 hk hlow))
  · have hfault : profileFault count.toNat seatForce.toNat points = some (.seatForce, none) :=
      (profileFault_seatForce h2 h8 hnone).trans (if_pos hforce)
    exact exec_writeProfile_taken s s _ _ _ _ _ _ _ hf hcount hfits
      (writeProfileBody_fault (s := s.beginTransaction .cell) (seatForce := seatForce) (hlib ▸ hswap) hplace
        (hpoints' ▸ hfault))
  · have hfault : profileFault count.toNat seatForce.toNat points = none :=
      (profileFault_seatForce h2 h8 hnone).trans (if_neg (by omega))
    have hbody := writeProfileBody_stored (s := s.beginTransaction .cell) (hlib ▸ hswap) hplace (hpoints' ▸ hfault)
    rw [State.setShadow_beginTransaction, hpoints'] at hbody
    refine ⟨_, exec_writeProfile_taken s _ _ _ _ _ _ _ _ hf hcount hfits hbody, rfl, setShadow_frame s _ _,
      fun b place => profileAt_setShadow s _ _ b place⟩

end Sys2Proof.Machine
end

section
/-! PROOF. CLEAR_PROFILE, COPY_BANK, READ_PROFILE and SWAP_BANKS (R66 to R71). -/

namespace Sys2Proof.Machine

theorem exec_clearProfile_taken (s t : State) (pinType holeClass : Byte) (status : Status) (payload : List Byte)
    (hf : portFree s.cell)
    (hb : clearProfileBody pinType holeClass (s.beginTransaction .cell) = (t.beginTransaction .cell, status, payload)) :
    exec (.clearProfile .cell pinType holeClass) s = .next (t.withReply .cell 0x21 status payload) :=
  congrArg Host.Outcome.next
    (receive_eq_withReply (.clearProfile .cell pinType holeClass) .cell _ s t status payload hf
      (by simp [frameLength, fieldBytes]) rfl rfl hb)

theorem exec_copyBank_taken (s t : State) (status : Status) (payload : List Byte) (hf : portFree s.cell)
    (hb : copyBankBody (s.beginTransaction .cell) = (t.beginTransaction .cell, status, payload)) :
    exec (.copyBank .cell) s = .next (t.withReply .cell 0x22 status payload) :=
  congrArg Host.Outcome.next
    (receive_eq_withReply (.copyBank .cell) .cell _ s t status payload hf (by simp [frameLength, fieldBytes]) rfl rfl hb)

theorem exec_readProfile_taken (s t : State) (role pinType holeClass : Byte) (status : Status) (payload : List Byte)
    (hf : portFree s.cell)
    (hb : readProfileBody role pinType holeClass (s.beginTransaction .cell) =
      (t.beginTransaction .cell, status, payload)) :
    exec (.readProfile .cell role pinType holeClass) s = .next (t.withReply .cell 0x23 status payload) :=
  congrArg Host.Outcome.next
    (receive_eq_withReply (.readProfile .cell role pinType holeClass) .cell _ s t status payload hf
      (by simp [frameLength, fieldBytes]) rfl rfl hb)

theorem clearProfileBody_place {s : State} {pinType holeClass : Byte} (hswap : s.library.swapPending = false)
    (hplace : 3 < pinType.toNat ∨ 7 < holeClass.toNat) :
    clearProfileBody pinType holeClass s = (s, .range, [0]) := by
  rw [clearProfileBody, if_neg (by simp [hswap]), if_pos ((placeBad_iff _ _).2 hplace)]
  rfl

theorem clearProfileBody_cleared {s : State} {pinType holeClass : Byte} (hswap : s.library.swapPending = false)
    (hp : pinType.toNat ≤ 3) (hc : holeClass.toNat ≤ 7) :
    clearProfileBody pinType holeClass s =
      (s.setShadow (profilePlace pinType.toNat holeClass.toNat) none, .ok, [pinType, holeClass]) := by
  rw [clearProfileBody, if_neg (by simp [hswap]), if_neg (by rw [placeBad_iff]; omega)]

theorem copyBankBody_copied {s : State} (hswap : s.library.swapPending = false) :
    copyBankBody s =
      ({ s with library := copiedLibrary s.library }, .ok,
        u8 (presentCount (copiedLibrary s.library) (otherBank s.library.active) bankPlaces)) := by
  rw [copyBankBody, if_neg (by simp [hswap])]
  rfl

theorem presentCount_eq (l : Library) (b : Bank) (n : Nat) :
    presentCount l b n = (List.range n).countP (fun k => (profileAt l b k).isSome) := by
  induction n with
  | zero => rfl
  | succ n ih => rw [presentCount, ih, List.range_succ, List.countP_append, List.countP_singleton]

theorem profileAt_copiedLibrary (l : Library) (b : Bank) (k : Nat) :
    profileAt (copiedLibrary l) b k = profileAt l l.active k := by
  unfold copiedLibrary profileAt roleBank
  cases hactive : l.active <;> cases b <;> simp [otherBank, setBank, bankOf]

theorem copiedLibrary_frame (l : Library) :
    copiedLibrary l = { l with bank0 := (copiedLibrary l).bank0, bank1 := (copiedLibrary l).bank1 } := by
  unfold copiedLibrary
  cases roleBank l .shadow <;> rfl

theorem roleOf_eq_none {b : Byte} (hb : 1 < b.toNat) : roleOf b = none := by
  unfold roleOf
  split
  · omega
  · omega
  · rfl

theorem readProfileBody_range {s : State} {role pinType holeClass : Byte}
    (hr : 1 < role.toNat ∨ 3 < pinType.toNat ∨ 7 < holeClass.toNat) :
    readProfileBody role pinType holeClass s = (s, .range, [0]) := by
  cases hrole : roleOf role with
  | none => rw [readProfileBody, hrole]; rfl
  | some r =>
    have hplace : 3 < pinType.toNat ∨ 7 < holeClass.toNat :=
      hr.resolve_left fun h => nomatch hrole.symm.trans (roleOf_eq_none h)
    simp only [readProfileBody, hrole, if_pos ((placeBad_iff _ _).2 hplace)]
    rfl

/-- A bank role by its byte: 0 is the active bank, 1 the other one (R60, 12.6). -/
theorem roleOf_bank {role : Byte} (hr : role.toNat ≤ 1) {l : Library} {b : Bank} (hb : b = l.active ↔ role = 0) :
    ∃ r, roleOf role = some r ∧ u8 (bankRoleCode r) = [role] ∧ roleBank l r = b := by
  rcases Nat.le_one_iff_eq_zero_or_eq_one.1 hr with h | h
  · obtain rfl : role = 0 := BitVec.eq_of_toNat_eq h
    exact ⟨.active, rfl, rfl, (hb.2 rfl).symm⟩
  · obtain rfl : role = 1 := BitVec.eq_of_toNat_eq h
    exact ⟨.shadow, rfl, rfl, (otherBank_ne_iff b l.active).2 fun h => nomatch hb.1 h⟩

theorem profileBytes_eq (r : BankRole) (generation : Half) (pinType holeClass : Byte) (p : Option Profile) :
    profileBytes r generation pinType.toNat holeClass.toNat p =
      u8 (bankRoleCode r) ++ le16 generation ++ [pinType, holeClass] ++
        match p with
        | none => [0, 0, 0, 0]
        | some q =>
          [1] ++ u8 q.points.length ++ u16 q.seatForce ++
            q.points.flatMap (fun e => u16 e.depth ++ u16 e.lower ++ u16 e.upper) := by
  unfold profileBytes
  rw [u8_toNat, u8_toNat]
  cases p with
  | none => rw [List.append_assoc _ [pinType], List.singleton_append]; rfl
  | some q => rw [List.append_assoc _ [pinType], List.singleton_append]; rfl

theorem readProfileBody_read {s : State} {role pinType holeClass : Byte} {r : BankRole} (hrole : roleOf role = some r)
    (hp : pinType.toNat ≤ 3) (hc : holeClass.toNat ≤ 7) :
    readProfileBody role pinType holeClass s =
      (s, .ok, profileBytes r s.library.generation pinType.toNat holeClass.toNat
        (profileAt s.library (roleBank s.library r) (profilePlace pinType.toNat holeClass.toNat))) := by
  simp only [readProfileBody, hrole]
  exact if_neg (by rw [placeBad_iff]; omega)

/-- Settles O25: each request by its refusals and by what it leaves in the shadow bank, or reads. -/
theorem shadowClearedCopiedRead : Obligations.ShadowClearedCopiedRead := by
  intro s hf
  have hlib : (s.beginTransaction .cell).library = s.library := State.beginTransaction_library s _
  refine ⟨fun pinType holeClass => ⟨fun hswap => ?_, fun hswap hplace => ?_, fun hswap hp hc => ?_⟩, fun hswap => ?_,
    fun hswap => ?_, fun role pinType holeClass => ⟨fun hr => ?_, fun hr hp hc b hb => ?_⟩⟩
  · exact exec_clearProfile_taken s s _ _ _ _ hf (if_pos (hlib ▸ hswap))
  · exact exec_clearProfile_taken s s _ _ _ _ hf (clearProfileBody_place (hlib ▸ hswap) hplace)
  · have hbody := clearProfileBody_cleared (s := s.beginTransaction .cell) (hlib ▸ hswap) hp hc
    rw [State.setShadow_beginTransaction] at hbody
    exact ⟨_, exec_clearProfile_taken s _ _ _ _ _ hf hbody, rfl, setShadow_frame s _ _,
      fun b place => profileAt_setShadow s _ _ b place⟩
  · exact exec_copyBank_taken s s _ _ hf (if_pos (hlib ▸ hswap))
  · have hbody := copyBankBody_copied (s := s.beginTransaction .cell) (hlib ▸ hswap)
    rw [presentCount_eq, hlib] at hbody
    exact ⟨_, exec_copyBank_taken s { s with library := copiedLibrary s.library } _ _ hf hbody, rfl,
      copiedLibrary_frame _, fun b place => profileAt_copiedLibrary _ b place⟩
  · exact exec_readProfile_taken s s _ _ _ _ _ hf (readProfileBody_range hr)
  · obtain ⟨r, hrole, hbyte, hbank⟩ := roleOf_bank hr hb
    have hbody := readProfileBody_read (s := s.beginTransaction .cell) hrole hp hc
    rw [hlib, hbank, profileBytes_eq, hbyte] at hbody
    refine (exec_readProfile_taken s s _ _ _ _ _ hf hbody).trans ?_
    unfold profilePlace
    cases profileAt s.library b (pinType.toNat * 8 + holeClass.toNat) <;> simp

end Sys2Proof.Machine
end

section
/-! PROOF. What a command does, apart from its port: every request is judged, its block changes the state, and its port takes
the reply. -/

namespace Sys2Proof.Machine

/-! ## A change of one port -/

/-- `t` is `s` but for a port, whose queue is as it was. -/
def PortOnly (p : Port) (s t : State) : Prop := ∃ f, (∀ u : PortUnit, (f u).queue = u.queue) ∧ t = s.modPort p f

theorem PortOnly.refl (p : Port) (s : State) : PortOnly p s s := ⟨id, fun _ => rfl, by cases p <;> rfl⟩

theorem PortOnly.trans {p : Port} {s t u : State} (ht : PortOnly p s t) (hu : PortOnly p t u) : PortOnly p s u := by
  obtain ⟨f, hf, rfl⟩ := ht
  obtain ⟨g, hg, rfl⟩ := hu
  exact ⟨fun v => g (f v), fun v => (hg _).trans (hf v), by cases p <;> rfl⟩

theorem portOnly_modPort {p : Port} {s : State} {f : PortUnit → PortUnit} (hf : ∀ u : PortUnit, (f u).queue = u.queue) :
    PortOnly p s (s.modPort p f) := ⟨f, hf, rfl⟩

theorem portOnly_answer (p : Port) (s : State) (code : Byte) (status : Status) (payload : List Byte) :
    PortOnly p s (s.answer p code status payload) := portOnly_modPort fun _ => rfl

theorem portOnly_withReply (p : Port) (s : State) (code : Byte) (status : Status) (payload : List Byte) :
    PortOnly p s (s.withReply p code status payload) := portOnly_modPort fun _ => rfl

theorem portOnly_withMark (p : Port) (s : State) : PortOnly p s (s.withMark p) := portOnly_modPort fun _ => rfl

theorem portOnly_beginTransaction (p : Port) (s : State) : PortOnly p s (s.beginTransaction p) :=
  portOnly_modPort fun _ => rfl

theorem portOnly_endReception (p : Port) (s : State) : PortOnly p s (s.endReception p) := portOnly_modPort fun _ => rfl

theorem portOnly_openTransfer (p : Port) (s : State) (kind : TransferKind) (count : Nat) (clamped : Bool) :
    PortOnly p s (s.openTransfer p kind count clamped) := by
  unfold State.openTransfer State.formBlock
  exact portOnly_modPort fun _ => rfl

theorem portOnly_dropTransfer (p : Port) (s : State) (t : Transfer) : PortOnly p s (s.dropTransfer p t) := by
  unfold State.dropTransfer
  exact (portOnly_modPort (f := fun u => { u with transfer := none }) fun _ => rfl).trans (portOnly_answer p _ _ _ _)

theorem portOnly_readReply (p : Port) (s : State) : PortOnly p s (s.readReply p) := by
  rcases s.readReply_cases p with ⟨_, h⟩ | ⟨_, _, _, _, _, h⟩ | ⟨_, _, _, _, h⟩ | ⟨_, _, _, h⟩ <;>
    · rw [h]
      exact portOnly_modPort fun _ => rfl

theorem portOnly_readBytes (p : Port) (s : State) (n : Nat) (going : Option Reception) :
    PortOnly p s (s.readBytes p n going) := by
  unfold State.readBytes
  split
  · exact portOnly_modPort fun _ => rfl
  · exact ((portOnly_endReception p s).trans (portOnly_readReply p _)).trans (portOnly_modPort fun _ => rfl)

/-! ## What a request does to the state -/

/-- What the block of a request makes of the state, but for the reply. -/
def requestEffect (i : Instr) (s : State) : State :=
  match i with
  | .restart .cell => s.restarted
  | .fetchNotice p => (fetchNoticeBody p s).1
  | .setBlock _ size => (setBlockBody size s).1
  | .mapEdit _ => (mapEditBody s).1
  | .mapActivate _ => (mapActivateBody s).1
  | .writeSite _ site f => (writeSiteBody site f s).1
  | .clearSite _ site => (clearSiteBody site s).1
  | .writePins _ first count entries => (writePinsBody first count entries s).1
  | .setKeepout _ distance => (setKeepoutBody distance s).1
  | .lockSites _ first count => (lockSitesBody first count s).1
  | .unlockSites _ first count => (unlockSitesBody first count s).1
  | .disposeSite _ site => (disposeSiteBody site s).1
  | .writeProfile _ pinType holeClass count seatForce points =>
    (writeProfileBody pinType holeClass count seatForce points s).1
  | .clearProfile _ pinType holeClass => (clearProfileBody pinType holeClass s).1
  | .copyBank _ => (copyBankBody s).1
  | .swapBanks _ => (swapBanksBody s).1
  | .setTool _ head laneCount toolCode lanes => (setToolBody head laneCount toolCode lanes s).1
  | .setHead _ head setting value => (setHeadBody head setting value s).1
  | .keepSettings _ value => (keepSettingsBody value s).1
  | .setLine _ head line value => (setLineBody head line value s).1
  | .claim p site kind wait => (onHead p (claimBody site kind wait) s).1
  | .release p => (onHead p releaseBody s).1
  | .cancelWait p => (onHead p cancelWaitBody s).1
  | .arm p => (onHead p armBody s).1
  | .start p => (onHead p startBody s).1
  | .abort p head => (onNamedHead p head abortBody s).1
  | .resume p head => (onNamedHead p head resumeBody s).1
  | .headClear p head => (onNamedHead p head headClearBody s).1
  | .armWatch _ slot site lane => (armWatchBody slot site lane s).1
  | .disarmWatch _ slot => (disarmWatchBody slot s).1
  | _ => s

/-- A request is answered by its port, or taken: its block's effect stands between two changes of the port. -/
def Handled (i : Instr) (p : Port) (s t : State) : Prop :=
  PortOnly p s t ∨
    codeListed p (requestCode i) = true ∧ ∃ u, PortOnly p s u ∧ PortOnly p (requestEffect i u) t

theorem judgeFrame_handled {i : Instr} {p : Port} {body : State → State} {s t : State}
    (ht : judgeFrame i p body s = t) (hb : ∀ u, PortOnly p (requestEffect i u) (body u)) : Handled i p s t := by
  subst ht
  rcases judgeFrame_cases i p body s with ⟨-, h⟩ | ⟨-, -, h⟩ | ⟨-, -, -, h⟩ | ⟨-, -, -, -, h⟩ | ⟨-, -, hc, -, h⟩ <;> rw [h]
  · exact .inl (portOnly_withMark p s)
  · exact .inl (portOnly_withReply p s _ _ _)
  · exact .inl (portOnly_withReply p s _ _ _)
  · exact .inl (portOnly_withReply p s _ _ _)
  · exact .inr ⟨hc, _, portOnly_beginTransaction p s, hb _⟩

theorem receive_handled {i : Instr} {p : Port} {body : State → Answer} {s t : State} (ht : receive i p body s = t)
    (hb : ∀ u, (body u).1 = requestEffect i u) : Handled i p s t :=
  judgeFrame_handled ht fun u => hb u ▸ portOnly_answer p _ _ _ _

theorem readRecordBody_state (site : Byte) (s : State) : (readRecordBody site s).1 = s := by
  unfold readRecordBody
  split <;> rfl

theorem readProfileBody_state (role pinType holeClass : Byte) (s : State) :
    (readProfileBody role pinType holeClass s).1 = s := by
  unfold readProfileBody
  split
  · rfl
  · split <;> rfl

theorem onNamedHead_state (p : Port) (head : Option Byte) (s : State) :
    (onNamedHead p head headStatusBody s).1 = s := by
  unfold onNamedHead
  split <;> rfl

theorem readPinsBody_portOnly (p : Port) (site : Byte) (first : Half) (count : Byte) (s : State) :
    PortOnly p s (readPinsBody p site first count s) := by
  unfold readPinsBody
  split
  · exact portOnly_answer p s _ _ _
  · split
    · exact portOnly_answer p s _ _ _
    · split
      · exact portOnly_answer p s _ _ _
      · exact portOnly_openTransfer p s _ _ _

theorem readSitesBody_portOnly (p : Port) (first count : Byte) (s : State) :
    PortOnly p s (readSitesBody p first count s) := by
  unfold readSitesBody
  split
  · exact portOnly_answer p s _ _ _
  · exact portOnly_openTransfer p s _ _ _

theorem readTraceBody_portOnly (p : Port) (slot : Byte) (s : State) : PortOnly p s (readTraceBody p slot s) := by
  unfold readTraceBody
  split
  · exact portOnly_answer p s _ _ _
  · split
    · exact portOnly_answer p s _ _ _
    · exact portOnly_answer p s _ _ _
    · exact portOnly_answer p s _ _ _
    · exact portOnly_openTransfer p s _ _ _

theorem endTransfer_refused_portOnly (p : Port) (s : State) :
    PortOnly p s (receive (.endTransfer p) p (fun t => (t, .refusedState, [])) s) := by
  rcases receive_handled (i := .endTransfer p) (p := p) (body := fun t => (t, .refusedState, [])) (s := s) rfl
      fun _ => rfl with h | ⟨-, u, hu, ht⟩
  · exact h
  · exact hu.trans ht

theorem execEndTransfer_portOnly (p : Port) {s t : State} (h : execEndTransfer p s = .next t) : PortOnly p s t := by
  have hrefused := endTransfer_refused_portOnly p s
  cases p with
  | cell =>
    cases htransfer : s.cell.transfer with
    | none =>
      simp only [execEndTransfer, htransfer] at h
      cases h
      exact hrefused
    | some x =>
      simp only [execEndTransfer, htransfer] at h
      cases h
      exact (portOnly_beginTransaction .cell s).trans (portOnly_dropTransfer .cell _ x)
  | _ => cases h; exact hrefused

/-- Every request is handled by its port and its block. -/
theorem exec_handled {i : Instr} {p : Port} {s t : State} (hp : requestPort i = some p) (h : exec i s = .next t) :
    Handled i p s t := by
  cases i
  case restart q =>
    cases q
    · cases hp
      cases h
      exact .inr ⟨rfl, s, .refl _ s, portOnly_answer _ _ _ _ _⟩
    all_goals
      cases hp
      exact receive_handled (Host.Outcome.next.inj h) fun _ => rfl
  case endTransfer q => cases hp; exact .inl (execEndTransfer_portOnly p h)
  case readRecord q site => cases hp; exact receive_handled (Host.Outcome.next.inj h) (readRecordBody_state site)
  case readProfile q a b c => cases hp; exact receive_handled (Host.Outcome.next.inj h) (readProfileBody_state a b c)
  case headStatus q head => cases hp; exact receive_handled (Host.Outcome.next.inj h) (onNamedHead_state p head)
  case readPins q a b c => cases hp; exact judgeFrame_handled (Host.Outcome.next.inj h) (readPinsBody_portOnly p a b c)
  case readSites q a b => cases hp; exact judgeFrame_handled (Host.Outcome.next.inj h) (readSitesBody_portOnly p a b)
  case readTrace q a => cases hp; exact judgeFrame_handled (Host.Outcome.next.inj h) (readTraceBody_portOnly p a)
  all_goals cases hp
  all_goals exact receive_handled (Host.Outcome.next.inj h) fun _ => rfl

/-! ## Transactions -/

/-- A transaction of bytes changes its port alone, or runs a request that arrives on it. -/
theorem transact_handled {p : Port} {ended : Bool} {bytes : List Byte} {s t : State}
    (h : transact p ended bytes s = .next t) :
    PortOnly p s t ∨ ∃ i, requestPort i = some p ∧ Handled i p (s.endReception p) t := by
  unfold transact at h
  split at h
  · cases h
    exact .inl (portOnly_modPort (takeNothing_queue _ _))
  · cases h
    exact .inl (portOnly_readBytes p s _ _)
  · cases h
    unfold State.cutShort
    split
    · rw [State.discard_endReception]; exact .inl (portOnly_withMark p s)
    · exact .inl (portOnly_modPort fun _ => rfl)
  · cases h
    unfold State.badLength
    split
    · rw [State.discard_endReception]; exact .inl (portOnly_withMark p s)
    · exact .inl ((portOnly_endReception p s).trans (portOnly_answer p _ _ _ _))
  · split at h
    · next i hi =>
      have hp := (parseRequest_some _ _ _ _ hi).1
      rw [handRequest_eq_exec i p _ hp] at h
      exact .inr ⟨i, hp, exec_handled hp h⟩
    · cases h
      unfold State.unspelled
      split
      · rw [State.discard_endReception]; exact .inl (portOnly_withMark p s)
      · split <;> exact .inl ((portOnly_endReception p s).trans (portOnly_answer p _ _ _ _))

/-- Every request has a next state. -/
theorem handRequest_next (i : Instr) (s : State) : ∃ t, handRequest i s = .next t := by
  cases i
  case restart p => cases p <;> exact ⟨_, rfl⟩
  case endTransfer p =>
    show ∃ t, execEndTransfer p s = .next t
    unfold execEndTransfer
    split <;> exact ⟨_, rfl⟩
  all_goals exact ⟨_, rfl⟩

theorem transact_next (p : Port) (ended : Bool) (bytes : List Byte) (s : State) :
    ∃ t, transact p ended bytes s = .next t := by
  unfold transact
  split
  case h_5 =>
    split
    · exact handRequest_next _ _
    · exact ⟨_, rfl⟩
  all_goals exact ⟨_, rfl⟩

end Sys2Proof.Machine
end

section
/-! PROOF. No command touches the queue of commands, and none swaps the banks but with both engines IDLE (R70, R71). -/

namespace Sys2Proof.Machine

/-! ## What leaves the queue of commands and the library -/

/-- The queue of commands and the library are as they were. -/
structure Calm (s t : State) : Prop where
  pending : t.pending = s.pending
  library : t.library = s.library

namespace Calm

theorem refl (s : State) : Calm s s := ⟨rfl, rfl⟩

theorem trans {s t u : State} (ht : Calm s t) (hu : Calm t u) : Calm s u :=
  ⟨hu.pending.trans ht.pending, hu.library.trans ht.library⟩

section
variable {s t : State} (ht : Calm s t)
include ht

theorem modHead (h : Head) (f : HeadUnit → HeadUnit) : Calm s (t.modHead h f) :=
  ht.trans ⟨t.modHead_pending h f, t.modHead_library h f⟩

theorem setEngine (h : Head) (e : Engine) : Calm s (t.setEngine h e) := ht.modHead h _

theorem setClaim (h : Head) (c : Option Claim) : Calm s (t.setClaim h c) := ht.modHead h _

theorem setWaiting (h : Head) (w : Option Wait) : Calm s (t.setWaiting h w) := ht.modHead h _

theorem modLines (h : Head) (f : Lines → Lines) : Calm s (t.modLines h f) := ht.modHead h _

theorem setSilence (h : Head) (n : Option Nat) : Calm s (t.setSilence h n) := ht.modHead h _

theorem assertStop (h : Head) : Calm s (t.assertStop h) := ht.modLines h _

theorem markDue (h : Head) : Calm s (t.markDue h) := ht.modHead h _

theorem modPort (p : Port) (f : PortUnit → PortUnit) : Calm s (t.modPort p f) :=
  ht.trans ⟨t.modPort_pending p f, t.modPort_library p f⟩

theorem setSite (i : Nat) (x : Site) : Calm s (t.setSite i x) := ht.trans ⟨rfl, rfl⟩

theorem setSlot (k : Nat) (w : WatchSlot) : Calm s (t.setSlot k w) :=
  ht.trans ⟨t.setSlot_pending k w, t.setSlot_library k w⟩

theorem postHead (h : Head) (n : Notice) : Calm s (t.postHead h n) :=
  ht.trans ⟨t.postHead_pending h n, t.postHead_library h n⟩

theorem verdictEvent (h : Head) (job : Job) (env : Envelope) (ctx : Stroke) (o : StrokeOutcome) (isFault : Bool) :
    Calm s (t.verdictEvent h job env ctx o isFault) :=
  ht.trans ⟨by rw [State.verdictEvent_frame], by rw [State.verdictEvent_frame]⟩

theorem conclude (h : Head) (job : Job) (env : Envelope) (ctx : Stroke) (o : StrokeOutcome) :
    Calm s (t.conclude h job env ctx o) := (ht.verdictEvent h job env ctx o false).setEngine h _

theorem faultStroke (h : Head) (job : Job) (env : Envelope) (ctx : Stroke) (o : StrokeOutcome) (b : Breach) :
    Calm s (t.faultStroke h job env ctx o b) :=
  (((ht.verdictEvent h job env (faultContext ctx o b) o true).assertStop h).setEngine h _).setSilence h none

theorem lateFault (h : Head) (job : Job) (env : Envelope) (ctx : Stroke) (o : StrokeOutcome) :
    Calm s (t.lateFault h job env ctx o) := (((ht.assertStop h).setEngine h _).setSilence h none).postHead h _

theorem releaseSite (h : Head) (i : Nat) (st : SiteState) : Calm s (t.releaseSite h i st) :=
  ((ht.setSite i _).setClaim h none).markDue (otherHead h)

theorem settleSite (h : Head) (job : Job) (st : Option SiteState) : Calm s (t.settleSite h job st) := by
  cases st with
  | some x => exact ht.releaseSite h job.site x
  | none => exact ht.setSite _ _

theorem toIdle (h : Head) : Calm s (t.toIdle h) := (ht.setEngine h .idle).setSilence h none

theorem told {h : Head} {u : State} (hu : Told t h u) : Calm s u := by
  obtain ⟨⟨pulse, hframe⟩, -, -⟩ := hu
  rw [hframe]
  have hslots : Calm s { t with slot0 := u.slot0, slot1 := u.slot1 } := ht.trans ⟨rfl, rfl⟩
  exact hslots.modLines h _

theorem turns {P : Prop} {h : Head} {held : Bool} {job : Job} {env : Envelope} {u : State}
    (hu : Turns P t h held job env u) : Calm s u := by
  cases hu with
  | faults ctx o b => exact ht.faultStroke h job env ctx o b
  | concludes ctx o => exact ht.conclude h job env ctx o
  | stays l ctx => exact ht.setEngine h _

theorem liveFrame (h : Head) (held : Bool) (job : Job) (env : Envelope) (ctx : Stroke) (f : Sample) (l : Live) :
    Calm s (t.liveFrame h held l job env ctx f) := by
  obtain ⟨u, htold, hturns⟩ := t.liveFrame_turns h held job env ctx f l
  exact (ht.told htold).turns hturns

theorem hold (h : Head) (l : Live) (job : Job) (env : Envelope) (ctx : Stroke) : Calm s (t.hold h l job env ctx) :=
  (ht.setEngine h _).postHead h _

theorem returnFromHeld (h : Head) (l : Live) (job : Job) (env : Envelope) (ctx : Stroke) :
    Calm s (t.returnFromHeld h l job env ctx) := (ht.setEngine h _).postHead h _

theorem interlockAbort (h : Head) (job : Job) (env : Envelope) (ctx : Stroke) :
    Calm s (t.interlockAbort h job env ctx) := (ht.postHead h _).conclude h job env ctx .aborted

theorem interlockOn (h : Head) : Calm s (t.interlockOn h) := by
  unfold State.interlockOn
  split
  · split
    · exact ht.interlockAbort h _ _ _
    · exact ht.hold h _ _ _ _
    · exact ht.hold h _ _ _ _
    all_goals exact ht
  all_goals exact ht

theorem interlockOff (h : Head) : Calm s (t.interlockOff h) := by
  unfold State.interlockOff
  split
  · exact ht.returnFromHeld h _ _ _ _
  · exact ht

theorem interlockMoved (h : Head) (before : Bool) : Calm s (t.interlockMoved h before) := by
  unfold State.interlockMoved
  split
  · exact ht
  · split
    · exact ht.interlockOn h
    · exact ht.interlockOff h

theorem actionChanged (h : Head) : Calm s (t.actionChanged h) := by
  unfold State.actionChanged
  split
  · split
    · exact ht.returnFromHeld h _ _ _ _
    · exact ht.interlockAbort h _ _ _
    all_goals exact ht
  all_goals exact ht

theorem storeHead (h : Head) (g : Setting) (v : Nat) : Calm s (t.storeHead h g v) := by
  have hstored := ht.modHead h fun u => { u with settings := storeSetting u.settings g v }
  unfold State.storeHead
  cases g with
  | interlockPolarity => exact hstored.interlockMoved h _
  | interlockAction =>
    dsimp only
    split
    · exact hstored
    · exact hstored.actionChanged h
  | _ => exact hstored

theorem edited {m : BoardMap} {u : State} (hu : Edited t m u) : Calm s u := by
  obtain ⟨⟨tr, hframe⟩, -⟩ := hu
  rw [hframe]
  exact ht.trans ⟨rfl, rfl⟩

theorem releaseClaim (h : Head) : Calm s (t.releaseClaim h) := by
  unfold State.releaseClaim
  split
  · exact ht.releaseSite h _ _
  · exact ht

theorem restartVerdict (h : Head) : Calm s (t.restartVerdict h) := by
  unfold State.restartVerdict
  split
  · split
    · exact ht.verdictEvent h _ _ _ _ _
    · exact ht
  all_goals exact ht

theorem restartClaim (h : Head) : Calm s (t.restartClaim h) := by
  unfold State.restartClaim
  split
  · exact ((ht.setSite _ _).setClaim h none).setWaiting h none
  · exact ht.setWaiting h none

theorem restartHead (h : Head) : Calm s (t.restartHead h) := ((ht.restartVerdict h).restartClaim h).toIdle h

theorem restartSettings (h : Head) : Calm s (t.restartSettings h) := by
  unfold State.restartSettings
  split
  · exact ht
  · exact ht.modHead h _

theorem restartWork : Calm s t.restartWork :=
  ((((((((ht.restartHead .a).restartHead .b).restartSettings .a).restartSettings .b).assertStop .a).assertStop .b).modPort
    .cell _).modPort .headA _).modPort .headB _

end

end Calm

/-! ## The bank swap -/

/-- The queue of commands is as it was, and so is the active bank but where both engines are IDLE and no swap is
pending. -/
def Answers (s t : State) : Prop :=
  t.pending = s.pending ∧
    (t.library.active = s.library.active ∨
      t.headA.engine = .idle ∧ t.headB.engine = .idle ∧ t.library.swapPending = false)

theorem Calm.answers {s t : State} (h : Calm s t) : Answers s t := ⟨h.pending, .inl (congrArg Library.active h.library)⟩

theorem answers_of_active {s t : State} (hp : t.pending = s.pending) (ha : t.library.active = s.library.active) :
    Answers s t := ⟨hp, .inl ha⟩

/-- A swap that takes place finds both engines IDLE and leaves none pending. -/
theorem answers_trySwap {s t : State} (hp : t.pending = s.pending) (ha : t.library.active = s.library.active) :
    Answers s t.trySwap := by
  unfold State.trySwap
  split
  · next hswap =>
    obtain ⟨-, hidle⟩ := Bool.and_eq_true_iff.1 hswap
    obtain ⟨hA, hB⟩ := t.bothIdle_iff.1 hidle
    exact ⟨hp, .inr ⟨hA, hB, rfl⟩⟩
  · exact answers_of_active hp ha

theorem Calm.trySwap {s t : State} (h : Calm s t) : Answers s t.trySwap :=
  answers_trySwap h.pending (congrArg Library.active h.library)

theorem Calm.endStroke {s t : State} (ht : Calm s t) (h : Head) (job : Job) (ctx : Stroke) (o : StrokeOutcome)
    (cleared : Bool) : Answers s (t.endStroke h job ctx o cleared) :=
  (((ht.settleSite h job _).toIdle h).postHead h _).trySwap

theorem Calm.failComposition {s t : State} (ht : Calm s t) (h : Head) (job : Job) (f : CompositionFailure) :
    Calm s (t.failComposition h job f) := (ht.toIdle h).postHead h _

namespace Answers

variable {s t : State} (ht : Answers s t)
include ht

/-- What is changed of a head besides its engine changes nothing of this. -/
theorem modHead (h : Head) (f : HeadUnit → HeadUnit) (hf : ∀ u, (f u).engine = u.engine) : Answers s (t.modHead h f) := by
  obtain ⟨hp, hswap⟩ := ht
  refine ⟨(t.modHead_pending h f).trans hp, ?_⟩
  rw [State.modHead_library]
  cases h
  · simpa [State.modHead, hf] using hswap
  · simpa [State.modHead, hf] using hswap

theorem portOnly {p : Port} {u : State} (hu : PortOnly p t u) : Answers s u := by
  obtain ⟨f, -, rfl⟩ := hu
  cases p <;> exact ht

end Answers

theorem answers_of_portOnly {p : Port} {s u t : State} (hu : PortOnly p s u) (ht : Answers u t) : Answers s t := by
  obtain ⟨f, -, rfl⟩ := hu
  cases p <;> exact ht

theorem answers_refl (s : State) : Answers s s := (Calm.refl s).answers

/-! ## The effect of each request -/

theorem answers_clearEngine (h : Head) (s : State) : Answers s (s.clearEngine h) := by
  have hrelease := (Calm.refl s).releaseClaim h
  unfold State.clearEngine
  split
  · exact hrelease.answers
  · exact (hrelease.failComposition h _ _).trySwap
  · exact (hrelease.toIdle h).trySwap
  · split
    · exact ((Calm.refl s).verdictEvent h _ _ _ _ _).endStroke h _ _ _ _
    · exact (Calm.refl s).endStroke h _ _ _ _

theorem answers_headClear (h : Head) (s : State) : Answers s (headClearBody h s).1 :=
  ((answers_clearEngine h s).modHead h _ (by exact fun _ => rfl)).modHead h _ (by exact fun _ => rfl)

theorem answers_abort (h : Head) (s : State) : Answers s (abortBody h s).1 := by
  unfold abortBody
  split
  · exact answers_refl s
  · exact ((Calm.refl s).failComposition h _ _).trySwap
  · exact ((Calm.refl s).toIdle h).trySwap
  · split
    · exact ((Calm.refl s).conclude h _ _ _ .aborted).answers
    · exact answers_refl s

theorem answers_release (h : Head) (s : State) : Answers s (releaseBody h s).1 := by
  unfold releaseBody
  split
  · exact answers_refl s
  · split
    · exact ((Calm.refl s).releaseSite h _ _).answers
    · exact answers_refl s
    · exact (((Calm.refl s).toIdle h).releaseSite h _ _).trySwap
    · exact answers_refl s

theorem calm_claim (site kind wait : Byte) (h : Head) (s : State) : Calm s (claimBody site kind wait h s).1 := by
  unfold claimBody
  split
  · exact .refl s
  · exact ((Calm.refl s).setSite _ _).setClaim h _
  · split
    · exact (Calm.refl s).setWaiting h _
    · exact .refl s

theorem calm_arm (h : Head) (s : State) : Calm s (armBody h s).1 := by
  unfold armBody
  split
  · exact .refl s
  · repeat' split
    all_goals first
      | exact .refl s
      | exact (Calm.refl s).setEngine h _

theorem calm_start (h : Head) (s : State) : Calm s (startBody h s).1 := by
  unfold startBody
  split
  · repeat' split
    all_goals first
      | exact .refl s
      | exact (((Calm.refl s).setEngine h _).setSite _ _).setSilence h _
  all_goals exact .refl s

theorem calm_resume (h : Head) (s : State) : Calm s (resumeBody h s).1 := by
  unfold resumeBody
  split
  · split
    · exact .refl s
    · exact (Calm.refl s).returnFromHeld h _ _ _ _
  all_goals exact .refl s

theorem calm_setLine (head line value : Byte) (s : State) : Calm s (setLineBody head line value s).1 := by
  unfold setLineBody setPermit setMark
  repeat' split
  all_goals first
    | exact .refl s
    | (dsimp only; exact (Calm.refl s).modLines _ _)

theorem answers_swapBanks (s : State) : Answers s (swapBanksBody s).1 := by
  show Answers s (swapBanksState s)
  unfold swapBanksState
  split
  · exact answers_refl s
  · exact answers_trySwap rfl rfl

theorem answers_onHead (p : Port) (body : Head → State → Answer) (s : State) (hb : ∀ h, Answers s (body h s).1) :
    Answers s (onHead p body s).1 := by
  unfold onHead
  split
  · exact hb _
  · exact answers_refl s

theorem answers_onNamedHead (p : Port) (head : Option Byte) (body : Head → State → Answer) (s : State)
    (hb : ∀ h, Answers s (body h s).1) : Answers s (onNamedHead p head body s).1 := by
  unfold onNamedHead
  split
  · exact hb _
  · exact answers_refl s

theorem setShadow_active (s : State) (place : Nat) (p : Option Profile) :
    (s.setShadow place p).library.active = s.library.active := by rw [setShadow_frame]

theorem copiedLibrary_active (l : Library) : (copiedLibrary l).active = l.active := by rw [copiedLibrary_frame]

theorem answers_requestEffect (i : Instr) (s : State) : Answers s (requestEffect i s) := by
  cases i
  case restart p =>
    cases p
    · exact (Calm.refl s).restartWork.trySwap
    all_goals exact answers_refl s
  case fetchNotice p =>
    show Answers s (fetchNoticeBody p s).1
    unfold fetchNoticeBody
    split <;> exact ((Calm.refl s).modPort p _).answers
  case setBlock p size =>
    show Answers s (setBlockBody size s).1
    unfold setBlockBody
    split <;> exact answers_of_active rfl rfl
  case mapEdit p =>
    show Answers s (mapEditBody s).1
    unfold mapEditBody
    repeat' split
    all_goals exact answers_of_active rfl rfl
  case mapActivate p =>
    show Answers s (mapActivateBody s).1
    unfold mapActivateBody
    repeat' split
    all_goals exact answers_of_active rfl rfl
  case writeSite p site f =>
    rcases writeSiteBody_cases site f s with h | ⟨-, -, h⟩
    · exact (congrArg (Answers s) h).mpr (answers_refl s)
    · exact ((Calm.refl s).edited h).answers
  case clearSite p site =>
    rcases clearSiteBody_cases site s with h | ⟨-, h⟩
    · exact (congrArg (Answers s) h).mpr (answers_refl s)
    · exact ((Calm.refl s).edited h).answers
  case writePins p first count entries =>
    rcases writePinsBody_cases first count entries s with h | ⟨-, -, h⟩
    · exact (congrArg (Answers s) h).mpr (answers_refl s)
    · exact ((Calm.refl s).edited h).answers
  case setKeepout p distance =>
    show Answers s (setKeepoutBody distance s).1
    unfold setKeepoutBody
    repeat' split
    all_goals exact answers_of_active rfl rfl
  case lockSites p first count =>
    obtain ⟨i, m, h, -⟩ := lockSitesBody_setLocks first count s
    exact (congrArg (Answers s) h).mpr (answers_of_active rfl rfl)
  case unlockSites p first count =>
    obtain ⟨i, m, h⟩ := unlockSitesBody_setLocks first count s
    exact (congrArg (Answers s) h).mpr (answers_of_active rfl rfl)
  case disposeSite p site =>
    show Answers s (disposeSiteBody site s).1
    unfold disposeSiteBody
    repeat' split
    all_goals exact answers_of_active rfl rfl
  case writeProfile p a b c d e =>
    show Answers s (writeProfileBody a b c d e s).1
    unfold writeProfileBody
    repeat' split
    all_goals first
      | exact answers_refl s
      | exact answers_of_active rfl (setShadow_active s _ _)
  case clearProfile p a b =>
    show Answers s (clearProfileBody a b s).1
    unfold clearProfileBody
    repeat' split
    all_goals first
      | exact answers_refl s
      | exact answers_of_active rfl (setShadow_active s _ _)
  case copyBank p =>
    show Answers s (copyBankBody s).1
    unfold copyBankBody
    split
    · exact answers_refl s
    · exact answers_of_active rfl (copiedLibrary_active s.library)
  case swapBanks p => exact answers_swapBanks s
  case setTool p a b c d =>
    show Answers s (setToolBody a b c d s).1
    unfold setToolBody
    repeat' split
    all_goals first
      | exact answers_refl s
      | (dsimp only; exact ((Calm.refl s).modHead _ _).answers)
  case setHead p a b c =>
    show Answers s (setHeadBody a b c s).1
    unfold setHeadBody
    repeat' split
    all_goals first
      | exact answers_refl s
      | exact ((Calm.refl s).storeHead _ _ _).answers
  case keepSettings p a =>
    show Answers s (keepSettingsBody a s).1
    unfold keepSettingsBody
    split <;> exact answers_of_active rfl rfl
  case setLine p a b c => exact (calm_setLine a b c s).answers
  case claim p a b c => exact answers_onHead p _ s fun h => (calm_claim a b c h s).answers
  case release p => exact answers_onHead p _ s fun h => answers_release h s
  case cancelWait p =>
    refine answers_onHead p _ s fun h => ?_
    unfold cancelWaitBody
    split
    · exact ((Calm.refl s).setWaiting h _).answers
    · exact answers_refl s
  case arm p => exact answers_onHead p _ s fun h => (calm_arm h s).answers
  case start p => exact answers_onHead p _ s fun h => (calm_start h s).answers
  case abort p b => exact answers_onNamedHead p b _ s fun h => answers_abort h s
  case resume p b => exact answers_onNamedHead p b _ s fun h => (calm_resume h s).answers
  case headClear p b => exact answers_onNamedHead p b _ s fun h => answers_headClear h s
  case armWatch p a b c =>
    show Answers s (armWatchBody a b c s).1
    unfold armWatchBody
    repeat' split
    all_goals first
      | exact answers_refl s
      | exact ((Calm.refl s).setSlot _ _).answers
  case disarmWatch p a =>
    show Answers s (disarmWatchBody a s).1
    unfold disarmWatchBody
    repeat' split
    all_goals first
      | exact answers_refl s
      | exact ((Calm.refl s).setSlot _ _).answers
  all_goals exact answers_refl s

theorem Handled.answers {i : Instr} {p : Port} {s t : State} (h : Handled i p s t) : Answers s t := by
  rcases h with h | ⟨-, u, hu, ht⟩
  · exact (answers_refl s).portOnly h
  · exact (answers_of_portOnly hu (answers_requestEffect i u)).portOnly ht

/-! ## Every command -/

theorem answers_transact {p : Port} {ended : Bool} {bytes : List Byte} {s t : State}
    (h : transact p ended bytes s = .next t) : Answers s t := by
  rcases transact_handled h with h | ⟨i, -, h⟩
  · exact (answers_refl s).portOnly h
  · exact answers_of_portOnly (portOnly_endReception p s) h.answers

theorem answers_retractFrame (s : State) (h : Head) (job : Job) (env : Envelope) (ctx : Stroke) (f : Sample) :
    Answers s (s.retractFrame h job env ctx f) := by
  unfold State.retractFrame
  split
  · exact ((Calm.refl s).lateFault h job env _ _).answers
  · split
    · exact ((Calm.refl s).lateFault h job env _ _).answers
    · split
      · exact (Calm.refl s).endStroke h job _ _ _
      · exact ((Calm.refl s).setEngine h _).answers

theorem answers_deliver (s : State) (h : Head) (f : Sample) : Answers s (s.deliver h f) := by
  unfold State.deliver
  split
  case h_4 =>
    split
    case h_5 => exact answers_retractFrame s h _ _ _ f
    case h_6 => exact answers_refl s
    all_goals exact ((Calm.refl s).liveFrame h _ _ _ _ f _).answers
  all_goals exact answers_refl s

theorem answers_acceptFrame (s : State) (h : Head) (f : Sample) : Answers s (s.acceptFrame h f) := by
  have h' := answers_deliver (s.modHead h fun u => { u with link := acceptedLink u f }) h f
  unfold Answers at h' ⊢
  rw [State.modHead_pending, State.modHead_library] at h'
  exact h'

theorem answers_completeComposition (s : State) (h : Head) : Answers s (s.completeComposition h) := by
  unfold State.completeComposition
  split
  · split
    · exact ((Calm.refl s).failComposition h _ _).trySwap
    · exact (((Calm.refl s).setEngine h _).postHead h _).answers
  all_goals exact answers_refl s

theorem calm_reevaluate (s : State) (h : Head) (w : Wait) : Calm s (s.reevaluate h w) := by
  have hwait := (Calm.refl s).setWaiting h none
  unfold State.reevaluate
  split
  · exact ((hwait.setSite _ _).setClaim h _).postHead h _
  · exact hwait.postHead h _
  · exact (Calm.refl s).setWaiting h _

/-- Every command has a next state, which answers it. -/
theorem exec_answers (c : Instr) (s : State) : ∃ t, exec c s = .next t ∧ Answers s t := by
  have hrequest : ∀ p, requestPort c = some p → ∃ t, exec c s = .next t ∧ Answers s t := fun p hp => by
    obtain ⟨t, ht⟩ := handRequest_next c s
    rw [handRequest_eq_exec c p s hp] at ht
    exact ⟨t, ht, (exec_handled hp ht).answers⟩
  have htransact : ∀ p ended bytes, ∃ t, transact p ended bytes s = .next t ∧ Answers s t := fun p ended bytes => by
    obtain ⟨t, ht⟩ := transact_next p ended bytes s
    exact ⟨t, ht, answers_transact ht⟩
  cases c
  case hardReset => exact ⟨_, rfl, rfl, .inr ⟨rfl, rfl, rfl⟩⟩
  case discardedFrame p bytes => exact htransact p false bytes
  case incompleteFrame p bytes => exact htransact p true bytes
  case unknown p bytes => exact htransact p false bytes
  case replyRead p =>
    exact ⟨_, rfl, (answers_refl s).portOnly ((portOnly_beginTransaction p s).trans (portOnly_readReply p _))⟩
  case sampleFrame h bytes =>
    simp only [exec, execSampleFrame]
    split
    · exact ⟨_, rfl, ((Calm.refl s).modHead h _).answers⟩
    · split
      · split
        · exact ⟨_, rfl, answers_refl s⟩
        · exact ⟨_, rfl, answers_acceptFrame s h _⟩
      · exact ⟨_, rfl, answers_refl s⟩
  case silenceTimerExpiry h =>
    have hstopped : Answers s (s.setSilence h none) := ((Calm.refl s).setSilence h none).answers
    simp only [exec, execSilenceTimerExpiry]
    split
    · split
      · split
        · exact ⟨_, rfl, ((Calm.refl s).faultStroke h _ _ _ _ _).answers⟩
        · exact ⟨_, rfl, ((Calm.refl s).lateFault h _ _ _ _).answers⟩
        · exact ⟨_, rfl, hstopped⟩
      all_goals exact ⟨_, rfl, hstopped⟩
    · exact ⟨_, rfl, answers_refl s⟩
  case dwellTimerExpiry h =>
    simp only [exec, execDwellTimerExpiry]
    split
    · split
      · exact ⟨_, rfl, ((Calm.refl s).conclude h _ _ _ _).answers⟩
      · exact ⟨_, rfl, answers_refl s⟩
    all_goals exact ⟨_, rfl, answers_refl s⟩
  case markPulseEnd h =>
    simp only [exec, execMarkPulseEnd]
    split
    · exact ⟨_, rfl, ((Calm.refl s).modHead h _).answers⟩
    · exact ⟨_, rfl, answers_refl s⟩
  case compositionCompletion h => exact ⟨_, rfl, answers_completeComposition s h⟩
  case reevaluation h =>
    simp only [exec, execReevaluation]
    split
    · split
      · exact ⟨_, rfl, (calm_reevaluate s h _).answers⟩
      · exact ⟨_, rfl, answers_refl s⟩
    · exact ⟨_, rfl, answers_refl s⟩
  case interlockChange h level =>
    exact ⟨_, rfl, (((Calm.refl s).modLines h _).interlockMoved h _).answers⟩
  all_goals exact hrequest _ rfl

/-- Settles O3. -/
theorem everyCommandAnswersAndKeepsQueue : Obligations.EveryCommandAnswersAndKeepsQueue := fun c s =>
  (exec_answers c s).imp fun _ ⟨ht, hpending, _⟩ => ⟨ht, hpending⟩

/-! ## SWAP_BANKS -/

theorem exec_swapBanks_taken (s t : State) (payload : List Byte) (hf : portFree s.cell)
    (hb : swapBanksBody (s.beginTransaction .cell) = (t.beginTransaction .cell, .pending, payload)) :
    exec (.swapBanks .cell) s = .next (t.withReply .cell 0x24 .pending payload) :=
  congrArg Host.Outcome.next
    (receive_eq_withReply (.swapBanks .cell) .cell _ s t .pending payload hf (by simp [frameLength, fieldBytes]) rfl rfl
      hb)

theorem swapBanksState_pending {s : State} (h : s.library.swapPending = true) : swapBanksState s = s := if_pos h

theorem swapBanksState_waits {s : State} (h : s.library.swapPending = false)
    (hbusy : ¬ (s.headA.engine = .idle ∧ s.headB.engine = .idle)) : swapBanksState s = s.askSwap := by
  have hidle : s.askSwap.bothIdle = false := by
    rw [← Bool.not_eq_true, State.bothIdle_iff]
    exact hbusy
  rw [swapBanksState, if_neg (by simp [h]), State.trySwap, hidle, Bool.and_false]
  rfl

theorem swapBanksState_swaps {s : State} (h : s.library.swapPending = false) (hA : s.headA.engine = .idle)
    (hB : s.headB.engine = .idle) : swapBanksState s = s.askSwap.swap := by
  have hidle : s.askSwap.bothIdle = true := s.askSwap.bothIdle_iff.2 ⟨hA, hB⟩
  rw [swapBanksState, if_neg (by simp [h]), State.trySwap, hidle, Bool.and_true]
  rfl

/-- Settles O26: SWAP_BANKS by what it finds, and every command by what it may do to the active bank. -/
theorem swapWaitsForBothEngines : Obligations.SwapWaitsForBothEngines := by
  refine ⟨fun s hf => ⟨fun hp => ?_, fun hp hbusy => ?_, fun hp hA hB n hn => ?_⟩, fun c s t ht hne => ?_⟩
  · have hstate := swapBanksState_pending (s := s.beginTransaction .cell) hp
    refine exec_swapBanks_taken s s _ hf ?_
    rw [swapBanksBody, hstate]
    simp [hp, flag8_eq]
  · have hstate := swapBanksState_waits (s := s.beginTransaction .cell) hp hbusy
    exact exec_swapBanks_taken s s.askSwap _ hf (by rw [swapBanksBody, hstate]; rfl)
  · have hstate := swapBanksState_swaps (s := s.beginTransaction .cell) hp hA hB
    subst hn
    have hlib : { s.library with active := otherBank s.library.active, generation := s.library.generation + 1 } =
        s.askSwap.swap.library := by
      cases hl : s.library
      simp_all [State.askSwap, State.swap]
    rw [hlib]
    exact exec_swapBanks_taken s _ _ hf (by rw [swapBanksBody, hstate]; rfl)
  · obtain ⟨t', ht', -, hswap⟩ := exec_answers c s
    cases ht.symm.trans ht'
    exact hswap.resolve_left hne

end Sys2Proof.Machine
end

section
/-! PROOF. What an accepted request stores keeps the ranges of R1, R4, R23, R27 and R61. -/

namespace Sys2Proof.Machine

/-! ## A profile that no check refuses (R61, R64) -/

theorem pointFault_eq_none {before : Option Nat} {b : Breakpoint} (h : pointFault before b = none) :
    (b.depth ≤ 6000 ∧ b.lower ≤ b.upper ∧ b.upper ≤ 20000) ∧ ∀ d, before = some d → d < b.depth := by
  unfold pointFault at h
  split at h
  · cases h
  · split at h
    · cases h
    · next horder =>
      split at h
      · cases h
      · split at h
        · cases h
        · refine ⟨⟨by omega, by omega, by omega⟩, fun d hd => ?_⟩
          subst hd
          simpa using horder

theorem pointsFault_none_law (bs : List Breakpoint) : ∀ (k : Nat) (before : Option Nat), pointsFault k before bs = none →
    (∀ b ∈ bs, b.depth ≤ 6000 ∧ b.lower ≤ b.upper ∧ b.upper ≤ 20000) ∧
      List.Pairwise (fun b c => b.depth < c.depth) bs ∧ ∀ d, before = some d → ∀ b ∈ bs, d < b.depth := by
  induction bs with
  | nil => exact fun _ _ _ => ⟨by simp, List.Pairwise.nil, by simp⟩
  | cons b bs ih =>
    intro k before h
    rw [pointsFault_cons] at h
    split at h
    · cases h
    · next hb =>
      obtain ⟨hrange, hbefore⟩ := pointFault_eq_none hb
      obtain ⟨hranges, hrise, hnext⟩ := ih _ _ h
      refine ⟨List.forall_mem_cons.2 ⟨hrange, hranges⟩, List.pairwise_cons.2 ⟨hnext _ rfl, hrise⟩, fun d hd => ?_⟩
      exact List.forall_mem_cons.2 ⟨hbefore d hd, fun c hc => (hbefore d hd).trans (hnext _ rfl c hc)⟩

theorem profileLaw_of_no_fault {seatForce : Nat} {points : List Breakpoint}
    (h : profileFault points.length seatForce points = none) :
    profileLaw { points := points, seatForce := seatForce } := by
  unfold profileFault at h
  split at h
  · cases h
  · split at h
    · cases h
    · next hpoints =>
      split at h
      · cases h
      · obtain ⟨hranges, hrise, -⟩ := pointsFault_none_law points 0 none hpoints
        exact ⟨⟨by dsimp only; omega, by dsimp only; omega⟩, ⟨by dsimp only; omega, by dsimp only; omega⟩, hranges,
          hrise⟩

/-! ## Settings, tools, sites and pins -/

theorem clampTo_between {lo hi : Nat} (h : lo ≤ hi) (v : Nat) : lo ≤ clampTo lo hi v ∧ clampTo lo hi v ≤ hi := by
  unfold clampTo
  split
  · exact ⟨le_rfl, h⟩
  · split
    · exact ⟨h, le_rfl⟩
    · omega

theorem judgeSetting_range {g : Setting} {lo hi v n : Nat} {st : Status} (hr : settingRange g = some (lo, hi))
    (hle : lo ≤ hi) (h : judgeSetting g v = some (n, st)) : lo ≤ n ∧ n ≤ hi := by
  simp only [judgeSetting, hr] at h
  split at h
  · cases h
    exact clampTo_between hle v
  · cases h
    omega

/-- A stored setting keeps the ranges of R27. -/
theorem storeSetting_snapshotLaw {t : Settings} {g : Setting} {v n : Nat} {st : Status}
    (h : judgeSetting g v = some (n, st)) (ht : snapshotLaw t.judged) : snapshotLaw (storeSetting t g n).judged := by
  obtain ⟨h0, h1, h2, h3, h4, h5, h6, h7, h8, h9⟩ := ht
  cases g with
  | stationPitch => exact ⟨judgeSetting_range rfl (by decide) h, h1, h2, h3, h4, h5, h6, h7, h8, h9⟩
  | guard => exact ⟨h0, (judgeSetting_range (g := .guard) rfl (by decide) h).2, h2, h3, h4, h5, h6, h7, h8, h9⟩
  | excursionAllowance =>
    exact ⟨h0, h1, (judgeSetting_range (g := .excursionAllowance) rfl (by decide) h).2, h3, h4, h5, h6, h7, h8, h9⟩
  | contactThreshold => exact ⟨h0, h1, h2, judgeSetting_range rfl (by decide) h, h4, h5, h6, h7, h8, h9⟩
  | dwell => exact ⟨h0, h1, h2, h3, (judgeSetting_range (g := .dwell) rfl (by decide) h).2, h5, h6, h7, h8, h9⟩
  | retractClearance => exact ⟨h0, h1, h2, h3, h4, judgeSetting_range rfl (by decide) h, h6, h7, h8, h9⟩
  | linkTimeout => exact ⟨h0, h1, h2, h3, h4, h5, judgeSetting_range rfl (by decide) h, h7, h8, h9⟩
  | verifyPercent => exact ⟨h0, h1, h2, h3, h4, h5, h6, judgeSetting_range rfl (by decide) h, h8, h9⟩
  | verifyTravel => exact ⟨h0, h1, h2, h3, h4, h5, h6, h7, judgeSetting_range rfl (by decide) h, h9⟩
  | headCeiling => exact ⟨h0, h1, h2, h3, h4, h5, h6, h7, h8, judgeSetting_range rfl (by decide) h⟩
  | failAction => exact ⟨h0, h1, h2, h3, h4, h5, h6, h7, h8, h9⟩
  | interlockAction => exact ⟨h0, h1, h2, h3, h4, h5, h6, h7, h8, h9⟩
  | interlockPolarity => exact ⟨h0, h1, h2, h3, h4, h5, h6, h7, h8, h9⟩

theorem snapshotLaw_default : snapshotLaw Settings.default.judged := by decide

/-- A tool taken by SET_TOOL keeps the ranges of R23. -/
theorem toolLaw_of_taken {laneCount toolCode : Byte} {lanes : List LaneEntry} (hl : lanes.length = laneCount.toNat)
    (h : ¬ (Config.laneLimit < laneCount.toNat ∨ 7 < toolCode.toNat)) :
    toolLaw { laneCount := laneCount.toNat, toolCode := toolCode.toNat, lanes := lanes.map clampedLane } := by
  obtain ⟨hcount, hcode⟩ := not_or.1 h
  refine ⟨Nat.not_lt.1 hcount, Nat.not_lt.1 hcode, by rw [List.length_map, hl], fun l hm => ?_⟩
  obtain ⟨e, -, rfl⟩ := List.mem_map.1 hm
  exact ⟨clampTo_between (by decide) _, clampTo_between (by decide) _⟩

theorem toolLaw_reset : toolLaw HeadUnit.reset.tool := by decide

theorem siteLaw_undefined : siteLaw Site.undefined := by decide

theorem pinLaw_blank : pinLaw Pin.blank := by decide

theorem writtenSite_siteLaw {site : Byte} {f : SiteFields} (h : siteFieldsBad site f = false) :
    siteLaw (writtenSite f) := by
  have hfields := of_decide_eq_false h
  have := f.x.isLt
  have := f.y.isLt
  have := f.firstPin.isLt
  have := f.pinCount.isLt
  refine ⟨?_, ?_, ?_, ?_, ?_, ⟨?_, ?_⟩, ?_⟩ <;> simp only [writtenSite] <;> omega

theorem entryPin_pinLaw {e : PinEntry} (h : pinEntryBad e = false) : pinLaw (entryPin e) := by
  have hbad : ¬ (15 < e.lane.toNat ∨ 3 < e.pinType.toNat ∨ 7 < e.holeClass.toNat ∨ 2000 < e.entryOffset.toNat) := by
    simpa [pinEntryBad] using h
  have := e.row.isLt
  have := e.column.isLt
  refine ⟨?_, ?_, ?_, ?_, ?_, ?_⟩ <;> simp only [entryPin] <;> omega

/-! ## The laws of the map and of the library -/

/-- The map's part of the laws: every site and pin within its ranges, and the three tables in their canonical form. -/
structure MapLaw (m : BoardMap) : Prop where
  sites : ∀ i, siteLaw (Table.get Site.undefined m.sites i)
  pins : ∀ k, pinLaw (Table.get Pin.blank m.pins k)
  sitesWf : Table.wf Site.undefined m.sites = true
  pinsWf : Table.wf Pin.blank m.pins = true
  locksWf : Table.wf false m.locks = true

/-- The library's part of the laws, but for a pending swap. -/
structure LibraryLaw (l : Library) : Prop where
  generation : generationLaw l
  bank0 : bankLaw l.bank0
  bank1 : bankLaw l.bank1
  bank0Wf : Table.wf none l.bank0 = true
  bank1Wf : Table.wf none l.bank1 = true

theorem MapLaw.setSite {m : BoardMap} (hm : MapLaw m) (i : Nat) {x : Site} (hx : siteLaw x) :
    MapLaw { m with sites := Table.set Site.undefined m.sites i x } := by
  refine { hm with sites := fun j => ?_, sitesWf := Table.wf_set _ _ _ _ hm.sitesWf }
  rw [Table.get_set]
  split
  · exact hx
  · exact hm.sites j

theorem MapLaw.setPin {m : BoardMap} (hm : MapLaw m) (k : Nat) {p : Pin} (hp : pinLaw p) :
    MapLaw { m with pins := Table.set Pin.blank m.pins k p } := by
  refine { hm with pins := fun j => ?_, pinsWf := Table.wf_set _ _ _ _ hm.pinsWf }
  rw [Table.get_set]
  split
  · exact hp
  · exact hm.pins j

theorem MapLaw.writePins (entries : List PinEntry) : ∀ (s : State) (first : Nat), MapLaw s.map →
    entries.any pinEntryBad = false → MapLaw (s.writePins first entries).map := by
  induction entries with
  | nil => exact fun _ _ hm _ => hm
  | cons e es ih =>
    intro s first hm hbad
    obtain ⟨he, hes⟩ := Bool.or_eq_false_iff.1 hbad
    exact ih _ _ (hm.setPin first (entryPin_pinLaw he)) hes

theorem bankLaw_set {t : Table (Option Profile)} (ht : bankLaw t) (k : Nat) {p : Option Profile}
    (hp : ∀ q, p = some q → profileLaw q) : bankLaw (Table.set none t k p) := fun e he q hq => by
  rcases Table.mem_set _ _ _ _ _ he with rfl | he
  · exact hp q hq
  · exact ht e he q hq

theorem LibraryLaw.setShadow {s : State} (hl : LibraryLaw s.library) (place : Nat) {p : Option Profile}
    (hp : ∀ q, p = some q → profileLaw q) : LibraryLaw (s.setShadow place p).library := by
  unfold State.setShadow
  cases roleBank s.library .shadow
  · exact { hl with bank0 := bankLaw_set hl.bank0 place hp, bank0Wf := Table.wf_set _ _ _ _ hl.bank0Wf }
  · exact { hl with bank1 := bankLaw_set hl.bank1 place hp, bank1Wf := Table.wf_set _ _ _ _ hl.bank1Wf }

theorem LibraryLaw.copied {l : Library} (hl : LibraryLaw l) : LibraryLaw (copiedLibrary l) := by
  unfold copiedLibrary roleBank
  cases hactive : l.active
  · exact { hl with bank1 := hl.bank0, bank1Wf := hl.bank0Wf }
  · exact { hl with bank0 := hl.bank1, bank0Wf := hl.bank1Wf }

/-- The generation and the active bank turn together (R60, R70). -/
theorem generationLaw_swap {l : Library} (h : generationLaw l) (pending : Bool) :
    generationLaw
      { l with active := otherBank l.active, generation := l.generation + 1, swapPending := pending } := by
  have hnext : (l.generation + 1).toNat % 2 = (l.generation.toNat + 1) % 2 := by
    rw [BitVec.toNat_add]
    simp
  cases hactive : l.active with
  | zero =>
    have heven : l.generation.toNat % 2 = 0 := h.1 hactive
    simp only [generationLaw, otherBank, hnext]
    exact iff_of_false nofun (by omega)
  | one =>
    have hodd : ¬ l.generation.toNat % 2 = 0 := fun he => nomatch hactive.symm.trans (h.2 he)
    simp only [generationLaw, otherBank, hnext]
    exact iff_of_true trivial (by omega)

end Sys2Proof.Machine
end

section
/-! PROOF. Every step keeps the laws of queues, lines, library, settings, tools, sites, pins, slots and tables. -/

namespace Sys2Proof.Machine

/-! ## The laws, for a part whose swap may still have to follow -/

/-- A head's part of the laws. -/
structure UnitLaw (u : HeadUnit) : Prop where
  permit : u.lines.override = .forceOn → u.lines.stop = false
  settings : snapshotLaw u.settings.judged
  tool : toolLaw u.tool

/-- The laws of the part, the one of a pending swap where `Q` stands: an event that takes an engine to IDLE breaks it until its
swap has followed (R71). -/
structure Sound (Q : Prop) (s : State) : Prop where
  queues : ∀ p, queueLaw (s.port p).queue
  units : ∀ h, UnitLaw (s.head h)
  forced : ∀ h, (s.head h).lines.override = .forceOn → s.map.mode = .edit
  library : LibraryLaw s.library
  map : MapLaw s.map
  recordsWf : Table.wf PressRecord.emptyForm s.records = true
  verdictsWf : Table.wf PinVerdict.noVerdict s.verdicts = true
  slot0 : slotLaw s.slot0
  slot1 : slotLaw s.slot1
  blocks : s.blockSize = 4 ∨ s.blockSize = 8 ∨ s.blockSize = 16 ∨ s.blockSize = 32
  swap : Q → s.library.swapPending = true → ¬ ∀ h, engineIdle (s.head h).engine = true

theorem permitLaw_iff (u : HeadUnit) : permitLaw u ↔ (u.lines.override = .forceOn → u.lines.stop = false) := by
  unfold permitLaw permitLevel stopLevel
  cases u.lines.override <;> simp +contextual

theorem bothIdle_iff_engineIdle (s : State) : s.bothIdle = true ↔ ∀ h, engineIdle (s.head h).engine = true := by
  rw [State.bothIdle, Bool.and_eq_true]
  exact ⟨fun ⟨hA, hB⟩ h => by cases h <;> assumption, fun hi => ⟨hi .a, hi .b⟩⟩

theorem sound_iff_partLaw (s : State) : Sound True s ↔ PartLaw s := by
  constructor
  · intro hs
    obtain ⟨hqueues, hunits, hforced, hlib, hmap, hrec, hver, h0, h1, hblocks, hswap⟩ := hs
    exact
      { cellQueue := hqueues .cell, queueA := hqueues .headA, queueB := hqueues .headB
        permitA := (permitLaw_iff _).2 (hunits .a).permit, permitB := (permitLaw_iff _).2 (hunits .b).permit
        forced := fun h => ((s.forcedOn_iff).1 h).elim (hforced .a) (hforced .b)
        generation := hlib.generation
        settingsA := (hunits .a).settings, settingsB := (hunits .b).settings
        toolA := (hunits .a).tool, toolB := (hunits .b).tool
        bank0 := hlib.bank0, bank1 := hlib.bank1, sites := hmap.sites, pins := hmap.pins
        slot0 := h0, slot1 := h1, blocks := hblocks
        swap := fun hp => by
          rw [← Bool.not_eq_true, bothIdle_iff_engineIdle]
          exact hswap trivial hp
        tables := ⟨hmap.sitesWf, hmap.pinsWf, hmap.locksWf, hlib.bank0Wf, hlib.bank1Wf, hrec, hver⟩ }
  · intro hs
    obtain ⟨hsites, hpins, hlocks, hbank0, hbank1, hrec, hver⟩ := hs.tables
    exact
      { queues := fun p => by
          cases p
          · exact hs.cellQueue
          · exact hs.queueA
          · exact hs.queueB
        units := fun h => by
          cases h
          · exact ⟨(permitLaw_iff _).1 hs.permitA, hs.settingsA, hs.toolA⟩
          · exact ⟨(permitLaw_iff _).1 hs.permitB, hs.settingsB, hs.toolB⟩
        forced := fun h ho => hs.forced ((s.forcedOn_iff).2 (by
          cases h
          · exact .inl ho
          · exact .inr ho))
        library := ⟨hs.generation, hs.bank0, hs.bank1, hbank0, hbank1⟩
        map := ⟨hs.sites, hs.pins, hsites, hpins, hlocks⟩
        recordsWf := hrec, verdictsWf := hver, slot0 := hs.slot0, slot1 := hs.slot1, blocks := hs.blocks
        swap := fun _ hp => by
          rw [← bothIdle_iff_engineIdle, hs.swap hp]
          exact Bool.false_ne_true }

/-- Of the lines, the settings and the tool nothing has changed. -/
structure UnitSame (u v : HeadUnit) : Prop where
  override : v.lines.override = u.lines.override
  stop : v.lines.stop = u.lines.stop
  judged : v.settings.judged = u.settings.judged
  tool : v.tool = u.tool

theorem UnitSame.law {u v : HeadUnit} (h : UnitSame u v) (hu : UnitLaw u) : UnitLaw v := by
  obtain ⟨hoverride, hstop, hjudged, htool⟩ := h
  exact ⟨by rw [hoverride, hstop]; exact hu.permit, hjudged ▸ hu.settings, htool ▸ hu.tool⟩

theorem setShadow_swapPending (s : State) (place : Nat) (p : Option Profile) :
    (s.setShadow place p).library.swapPending = s.library.swapPending := by rw [setShadow_frame]

theorem copiedLibrary_swapPending (l : Library) : (copiedLibrary l).swapPending = l.swapPending := by
  rw [copiedLibrary_frame]

/-! ## What each shared operation keeps -/

namespace Sound

variable {Q : Prop} {s : State} (hs : Sound Q s)
include hs

theorem weaken : Sound False s := { hs with swap := False.elim }

theorem modHead (h : Head) (f : HeadUnit → HeadUnit) (hu : UnitLaw (f (s.head h)))
    (ho : (f (s.head h)).lines.override = .forceOn → s.map.mode = .edit)
    (hidle : Q → engineIdle (f (s.head h)).engine = true → engineIdle (s.head h).engine = true) :
    Sound Q (s.modHead h f) := by
  refine
    { queues := fun p => by rw [State.modHead_port]; exact hs.queues p
      units := fun k => ?_, forced := fun k => ?_
      library := by rw [State.modHead_library]; exact hs.library
      map := by rw [State.modHead_map]; exact hs.map
      recordsWf := by rw [State.modHead_records]; exact hs.recordsWf
      verdictsWf := by rw [State.modHead_verdicts]; exact hs.verdictsWf
      slot0 := by rw [State.modHead_slot0]; exact hs.slot0
      slot1 := by rw [State.modHead_slot1]; exact hs.slot1
      blocks := by rw [State.modHead_blockSize]; exact hs.blocks
      swap := fun q hp hall => ?_ }
  · rw [State.head_modHead]
    split
    · next hk => rw [hk]; exact hu
    · exact hs.units k
  · rw [State.head_modHead, State.modHead_map]
    split
    · next hk => rw [hk]; exact ho
    · exact hs.forced k
  · rw [State.modHead_library] at hp
    refine hs.swap q hp fun k => ?_
    have hk := hall k
    rw [State.head_modHead] at hk
    split at hk
    · next heq => rw [heq] at hk ⊢; exact hidle q hk
    · exact hk

theorem modHead_same (h : Head) (f : HeadUnit → HeadUnit) (hf : UnitSame (s.head h) (f (s.head h)))
    (hidle : Q → engineIdle (f (s.head h)).engine = true → engineIdle (s.head h).engine = true) :
    Sound Q (s.modHead h f) :=
  hs.modHead h f (hf.law (hs.units h)) (by rw [hf.override]; exact hs.forced h) hidle

/-- An engine put into a state out of IDLE. -/
theorem setEngine (h : Head) (e : Engine) (he : engineIdle e = false) : Sound Q (s.setEngine h e) :=
  hs.modHead_same h _ ⟨rfl, rfl, rfl, rfl⟩ fun _ hi => nomatch he.symm.trans hi

theorem setClaim (h : Head) (c : Option Claim) : Sound Q (s.setClaim h c) :=
  hs.modHead_same h _ ⟨rfl, rfl, rfl, rfl⟩ fun _ => id

theorem setWaiting (h : Head) (w : Option Wait) : Sound Q (s.setWaiting h w) :=
  hs.modHead_same h _ ⟨rfl, rfl, rfl, rfl⟩ fun _ => id

theorem setSilence (h : Head) (n : Option Nat) : Sound Q (s.setSilence h n) :=
  hs.modHead_same h _ ⟨rfl, rfl, rfl, rfl⟩ fun _ => id

theorem markDue (h : Head) : Sound Q (s.markDue h) := hs.modHead_same h _ ⟨rfl, rfl, rfl, rfl⟩ fun _ => id

theorem modLines (h : Head) (f : Lines → Lines)
    (hp : (f (s.head h).lines).override = .forceOn → (f (s.head h).lines).stop = false ∧ s.map.mode = .edit) :
    Sound Q (s.modLines h f) :=
  hs.modHead h _ ⟨fun ho => (hp ho).1, (hs.units h).settings, (hs.units h).tool⟩ (fun ho => (hp ho).2) fun _ => id

/-- The lines but for the override and STOP. -/
theorem modLines_same (h : Head) (f : Lines → Lines) (ho : (f (s.head h).lines).override = (s.head h).lines.override)
    (hstop : (f (s.head h).lines).stop = (s.head h).lines.stop) : Sound Q (s.modLines h f) :=
  hs.modHead_same h _ ⟨ho, hstop, rfl, rfl⟩ fun _ => id

theorem assertStop (h : Head) : Sound Q (s.assertStop h) := hs.modLines h _ fun ho => nomatch ho

theorem toIdle (h : Head) : Sound False (s.toIdle h) :=
  Sound.setSilence (hs.weaken.modHead_same h _ ⟨rfl, rfl, rfl, rfl⟩ False.elim) h none

theorem setQueue (p : Port) (f : PortUnit → PortUnit) (hq : queueLaw (f (s.port p)).queue) :
    Sound Q (s.modPort p f) := by
  refine
    { queues := fun q => ?_
      units := fun h => by rw [State.modPort_head]; exact hs.units h
      forced := fun h => by rw [State.modPort_head, State.modPort_map]; exact hs.forced h
      library := by rw [State.modPort_library]; exact hs.library
      map := by rw [State.modPort_map]; exact hs.map
      recordsWf := by rw [State.modPort_records]; exact hs.recordsWf
      verdictsWf := by rw [State.modPort_verdicts]; exact hs.verdictsWf
      slot0 := by rw [State.modPort_slot0]; exact hs.slot0
      slot1 := by rw [State.modPort_slot1]; exact hs.slot1
      blocks := by rw [State.modPort_blockSize]; exact hs.blocks
      swap := fun hQ => by
        rw [State.modPort_library]
        simpa only [State.modPort_head] using hs.swap hQ }
  rw [State.port_modPort]
  split
  · next h => rw [h]; exact hq
  · exact hs.queues q

theorem modPort (p : Port) (f : PortUnit → PortUnit) (hf : ∀ u : PortUnit, (f u).queue = u.queue) :
    Sound Q (s.modPort p f) := hs.setQueue p f (by rw [hf]; exact hs.queues p)

theorem postTo (p : Port) (n : Notice) : Sound Q (s.postTo p n) := hs.setQueue p _ (arrive_queueLaw n (hs.queues p))

theorem postHead (h : Head) (n : Notice) : Sound Q (s.postHead h n) := Sound.postTo (hs.postTo (headPort h) n) .cell n

theorem postAll (n : Notice) : Sound Q (s.postAll n) :=
  Sound.postTo (Sound.postTo (hs.postTo .cell n) .headA n) .headB n

/-- The laws of a part whose heads and ports are those of `s`. -/
theorem sameUnits {t : State} (hports : ∀ p, t.port p = s.port p) (hheads : ∀ h, t.head h = s.head h)
    (hlib : LibraryLaw t.library) (hpending : t.library.swapPending = true → s.library.swapPending = true)
    (hmap : MapLaw t.map) (hmode : ∀ h, (s.head h).lines.override = .forceOn → t.map.mode = .edit)
    (hr : Table.wf PressRecord.emptyForm t.records = true) (hv : Table.wf PinVerdict.noVerdict t.verdicts = true)
    (h0 : slotLaw t.slot0) (h1 : slotLaw t.slot1)
    (hb : t.blockSize = 4 ∨ t.blockSize = 8 ∨ t.blockSize = 16 ∨ t.blockSize = 32) : Sound Q t :=
  { queues := fun p => hports p ▸ hs.queues p
    units := fun h => hheads h ▸ hs.units h
    forced := fun h => hheads h ▸ hmode h
    library := hlib, map := hmap, recordsWf := hr, verdictsWf := hv, slot0 := h0, slot1 := h1, blocks := hb
    swap := fun q hp hall => hs.swap q (hpending hp) fun h => hheads h ▸ hall h }

/-- What the laws do not read. -/
theorem unread {t : State} (hframe : t = { s with pending := t.pending, keep := t.keep }) : Sound Q t := by
  rw [hframe]
  exact hs.sameUnits (fun p => by cases p <;> rfl) (fun h => by cases h <;> rfl) hs.library id hs.map hs.forced
    hs.recordsWf hs.verdictsWf hs.slot0 hs.slot1 hs.blocks

/-- A library that keeps its law, and has a swap pending only where one was. -/
theorem setLibrary {l : Library} (hl : LibraryLaw l) (hp : l.swapPending = true → s.library.swapPending = true) :
    Sound Q { s with library := l } :=
  hs.sameUnits (fun p => by cases p <;> rfl) (fun h => by cases h <;> rfl) hl hp hs.map hs.forced hs.recordsWf
    hs.verdictsWf hs.slot0 hs.slot1 hs.blocks

theorem setShadow (place : Nat) {p : Option Profile} (hp : ∀ q, p = some q → profileLaw q) :
    Sound Q (s.setShadow place p) :=
  hs.setLibrary (hs.library.setShadow place hp) (setShadow_swapPending s place p).symm.trans

/-- A swap that was pending has followed, or an engine is out of IDLE. -/
theorem trySwap : Sound True s.trySwap := by
  unfold State.trySwap
  split
  · have hlib : LibraryLaw { s.library with
        active := otherBank s.library.active, generation := s.library.generation + 1, swapPending := false } :=
      { hs.library with generation := generationLaw_swap hs.library.generation false }
    have hswapped := (hs.weaken.setLibrary hlib fun h => nomatch h).postAll (swapDone (s.library.generation + 1))
    exact { hswapped with swap := fun _ hp => nomatch hp }
  · next hno =>
    refine { hs with swap := fun _ hp hall => hno ?_ }
    rw [hp, (bothIdle_iff_engineIdle s).2 hall]
    rfl

/-- A map that keeps its law, in MAP_EDIT while an override is FORCE_ON. -/
theorem setMap {m : BoardMap} (hm : MapLaw m) (hmode : ∀ h, (s.head h).lines.override = .forceOn → m.mode = .edit) :
    Sound Q { s with map := m } :=
  hs.sameUnits (fun p => by cases p <;> rfl) (fun h => by cases h <;> rfl) hs.library id hm hmode hs.recordsWf
    hs.verdictsWf hs.slot0 hs.slot1 hs.blocks

theorem setSite (i : Nat) {x : Site} (hx : siteLaw x) : Sound Q (s.setSite i x) :=
  hs.setMap (hs.map.setSite i hx) hs.forced

theorem setLocks (i n : Nat) (b : Bool) : Sound Q (s.setLocks i n b) :=
  hs.setMap { hs.map with locksWf := Table.wf_update _ _ _ _ _ hs.map.locksWf } hs.forced

theorem resolveSite (i : Nat) (st : SiteState) : Sound Q (s.resolveSite i st) := hs.setSite i (hs.map.sites i)

theorem setSiteState (i : Nat) (st : SiteState) : Sound Q (s.setSiteState i st) := hs.setSite i (hs.map.sites i)

theorem grant (h : Head) (i : Nat) (k : Kind) : Sound Q (s.grant h i k) :=
  Sound.setClaim (hs.setSite i 
    (x := { s.site i with state := .claimed, holder := some h, prior := some (priorOf k) }) (hs.map.sites i)) h _

theorem releaseSite (h : Head) (i : Nat) (st : SiteState) : Sound Q (s.releaseSite h i st) :=
  Sound.markDue (Sound.setClaim (hs.resolveSite i st) h none) (otherHead h)

/-- Records, verdicts and watch slots that keep their laws. -/
theorem setStore {records : Table PressRecord} {verdicts : Table PinVerdict} {w0 w1 : WatchSlot}
    (hr : Table.wf PressRecord.emptyForm records = true) (hv : Table.wf PinVerdict.noVerdict verdicts = true)
    (h0 : slotLaw w0) (h1 : slotLaw w1) :
    Sound Q { s with records := records, verdicts := verdicts, slot0 := w0, slot1 := w1 } :=
  hs.sameUnits (fun p => by cases p <;> rfl) (fun h => by cases h <;> rfl) hs.library id hs.map hs.forced hr hv h0 h1
    hs.blocks

theorem setSlot (k : Nat) {w : WatchSlot} (hw : slotLaw w) : Sound Q (s.setSlot k w) := by
  unfold State.setSlot
  split
  · exact hs.setStore hs.recordsWf hs.verdictsWf hw hs.slot1
  · exact hs.setStore hs.recordsWf hs.verdictsWf hs.slot0 hw

theorem edited {m : BoardMap} {t : State} (hm : MapLaw m)
    (hmode : ∀ h, (s.head h).lines.override = .forceOn → m.mode = .edit) (ht : Edited s m t) : Sound Q t := by
  obtain ⟨⟨tr, hframe⟩, -, hrec, hver⟩ := ht
  rw [hframe]
  have hstore := (hs.setMap hm hmode).setStore (hrec hs.recordsWf) (hver hs.verdictsWf) hs.slot0 hs.slot1
  exact hstore.modPort .cell (fun u => { u with transfer := tr }) fun _ => rfl

theorem told {h : Head} {u : State} (hu : Told s h u) : Sound Q u := by
  obtain ⟨⟨pulse, hframe⟩, h0, h1⟩ := hu
  rw [hframe]
  have hslots := hs.setStore hs.recordsWf hs.verdictsWf (h0 hs.slot0) (h1 hs.slot1)
  exact hslots.modLines_same h _ rfl rfl

/-! ## The verdict event and what follows it -/

theorem writeStroke (h : Head) (job : Job) (env : Envelope) (ctx : Stroke) (o : StrokeOutcome) :
    Sound Q (s.writeStroke h job env ctx o) := by
  have hstore := hs.setStore (Table.wf_set _ _ job.site (buildRecord s.map.generation h job env ctx o) hs.recordsWf)
    (Table.wf_update _ (pinSpan (s.site job.site)).2 _ (pinSpan (s.site job.site)).1
      (fun i before => pinVerdict job ctx o (s.pin i) before) hs.verdictsWf) hs.slot0 hs.slot1
  exact hstore.modPort .cell (fun u => { u with transfer := u.transfer.map (fun t => overtake t job.site) }) fun _ => rfl

theorem finishSlots (h : Head) (o : StrokeOutcome) : Sound Q (s.finishSlots h o) := by
  have hfinish : ∀ (k : Nat) {u : State}, Sound Q u → Sound Q (u.finishSlot h o k) := fun k u hu => by
    unfold State.finishSlot
    split
    · next hfill =>
      have hslot : slotLaw (u.slot k) := by
        unfold State.slot
        split
        · exact hu.slot0
        · exact hu.slot1
      have hfull := slotAfter_slotLaw h o (u.slot k) hslot
      rw [slotAfter, if_pos hfill] at hfull
      exact (hu.setSlot k hfull).postTo .cell _
    · exact hu
  exact hfinish 1 (hfinish 0 hs)

theorem verdictEvent (h : Head) (job : Job) (env : Envelope) (ctx : Stroke) (o : StrokeOutcome) (isFault : Bool) :
    Sound Q (s.verdictEvent h job env ctx o isFault) :=
  Sound.finishSlots (Sound.postHead (hs.writeStroke h job env ctx o) h _) h o

theorem conclude (h : Head) (job : Job) (env : Envelope) (ctx : Stroke) (o : StrokeOutcome) :
    Sound Q (s.conclude h job env ctx o) := Sound.setEngine (hs.verdictEvent h job env ctx o false) h _ rfl

theorem faultStroke (h : Head) (job : Job) (env : Envelope) (ctx : Stroke) (o : StrokeOutcome) (b : Breach) :
    Sound Q (s.faultStroke h job env ctx o b) :=
  Sound.setSilence (Sound.setEngine
    (Sound.assertStop (hs.verdictEvent h job env (faultContext ctx o b) o true) h) h _ rfl) h none

theorem lateFault (h : Head) (job : Job) (env : Envelope) (ctx : Stroke) (o : StrokeOutcome) :
    Sound Q (s.lateFault h job env ctx o) :=
  Sound.postHead (Sound.setSilence (Sound.setEngine (hs.assertStop h) h _ rfl) h none) h _

theorem settleSite (h : Head) (job : Job) (st : Option SiteState) : Sound Q (s.settleSite h job st) := by
  cases st with
  | some x => exact hs.releaseSite h job.site x
  | none => exact hs.setSiteState _ _

theorem endStroke (h : Head) (job : Job) (ctx : Stroke) (o : StrokeOutcome) (cleared : Bool) :
    Sound True (s.endStroke h job ctx o cleared) :=
  Sound.trySwap (Sound.postHead (Sound.toIdle (hs.settleSite h job _) h) h _)

theorem failComposition (h : Head) (job : Job) (f : CompositionFailure) :
    Sound True (s.failComposition h job f).trySwap := Sound.trySwap (Sound.postHead (hs.toIdle h) h _)

/-! ## HELD, the interlock and the frames -/

theorem turns {P : Prop} {h : Head} {held : Bool} {job : Job} {env : Envelope} {t : State}
    (ht : Turns P s h held job env t) : Sound Q t := by
  cases ht with
  | faults ctx o b => exact hs.faultStroke h job env ctx o b
  | concludes ctx o => exact hs.conclude h job env ctx o
  | stays l ctx => exact hs.setEngine h _ rfl

theorem liveFrame (h : Head) (held : Bool) (job : Job) (env : Envelope) (ctx : Stroke) (f : Sample) (l : Live) :
    Sound Q (s.liveFrame h held l job env ctx f) := by
  obtain ⟨u, htold, hturns⟩ := s.liveFrame_turns h held job env ctx f l
  exact Sound.turns (hs.told htold) hturns

theorem hold (h : Head) (l : Live) (job : Job) (env : Envelope) (ctx : Stroke) : Sound Q (s.hold h l job env ctx) :=
  Sound.postHead (hs.setEngine h _ rfl) h _

theorem returnFromHeld (h : Head) (l : Live) (job : Job) (env : Envelope) (ctx : Stroke) :
    Sound Q (s.returnFromHeld h l job env ctx) := Sound.postHead (hs.setEngine h _ rfl) h _

theorem interlockAbort (h : Head) (job : Job) (env : Envelope) (ctx : Stroke) :
    Sound Q (s.interlockAbort h job env ctx) := Sound.conclude (hs.postHead h _) h job env ctx .aborted

theorem interlockOn (h : Head) : Sound Q (s.interlockOn h) := by
  unfold State.interlockOn
  split
  · split
    · exact hs.interlockAbort h _ _ _
    · exact hs.hold h _ _ _ _
    · exact hs.hold h _ _ _ _
    all_goals exact hs
  all_goals exact hs

theorem interlockOff (h : Head) : Sound Q (s.interlockOff h) := by
  unfold State.interlockOff
  split
  · exact hs.returnFromHeld h _ _ _ _
  · exact hs

theorem interlockMoved (h : Head) (before : Bool) : Sound Q (s.interlockMoved h before) := by
  unfold State.interlockMoved
  split
  · exact hs
  · split
    · exact hs.interlockOn h
    · exact hs.interlockOff h

theorem actionChanged (h : Head) : Sound Q (s.actionChanged h) := by
  unfold State.actionChanged
  split
  · split
    · exact hs.returnFromHeld h _ _ _ _
    · exact hs.interlockAbort h _ _ _
    all_goals exact hs
  all_goals exact hs

theorem storeHead (h : Head) {g : Setting} {v n : Nat} {st : Status} (hj : judgeSetting g v = some (n, st)) :
    Sound Q (s.storeHead h g n) := by
  have hstored : Sound Q (s.modHead h (fun u => { u with settings := storeSetting u.settings g n })) :=
    hs.modHead h _ ⟨(hs.units h).permit, storeSetting_snapshotLaw hj (hs.units h).settings, (hs.units h).tool⟩
      (hs.forced h) fun _ => id
  unfold State.storeHead
  cases g with
  | interlockPolarity => exact hstored.interlockMoved h _
  | interlockAction =>
    dsimp only
    split
    · exact hstored
    · exact hstored.actionChanged h
  | _ => exact hstored

/-! ## HEAD_CLEAR and RESTART -/

theorem releaseClaim (h : Head) : Sound Q (s.releaseClaim h) := by
  unfold State.releaseClaim
  split
  · exact hs.releaseSite h _ _
  · exact hs

theorem restartVerdict (h : Head) : Sound Q (s.restartVerdict h) := by
  unfold State.restartVerdict
  split
  · split
    · exact hs.verdictEvent h _ _ _ .aborted false
    · exact hs
  all_goals exact hs

theorem restartClaim (h : Head) : Sound Q (s.restartClaim h) := by
  unfold State.restartClaim
  split
  · exact Sound.setWaiting (Sound.setClaim (hs.resolveSite _ _) h none) h none
  · exact hs.setWaiting h none

theorem restartHead (h : Head) : Sound False (s.restartHead h) :=
  Sound.toIdle (Sound.restartClaim (hs.restartVerdict h) h) h

theorem restartSettings (h : Head) : Sound Q (s.restartSettings h) := by
  unfold State.restartSettings
  split
  · exact hs
  · exact hs.modHead h _ ⟨(hs.units h).permit, snapshotLaw_default, (hs.units h).tool⟩ (hs.forced h) fun _ => id

end Sound

theorem queueLaw_nil (overrun : Bool) : queueLaw { items := [], overrun := overrun } := ⟨Nat.zero_le _, List.Pairwise.nil⟩

namespace Sound

theorem clearEngine {s : State} (hs : Sound True s) (h : Head) : Sound True (s.clearEngine h) := by
  unfold State.clearEngine
  split
  · exact hs.releaseClaim h
  · exact (hs.releaseClaim h).failComposition h _ _
  · exact ((hs.releaseClaim h).toIdle h).trySwap
  · split
    · exact (hs.verdictEvent h _ _ _ .aborted false).endStroke h _ _ _ _
    · exact hs.endStroke h _ _ _ _

theorem restarted {Q : Prop} {s : State} (hs : Sound Q s) : Sound True s.restarted := by
  have hheads := (((hs.restartHead .a).restartHead .b).restartSettings .a).restartSettings .b
  have hstop := (hheads.assertStop .a).assertStop .b
  exact (((hstop.setQueue .cell _ (queueLaw_nil false)).setQueue .headA _ (queueLaw_nil false)).setQueue .headB _
    (queueLaw_nil false)).trySwap

theorem retractFrame {s : State} (hs : Sound True s) (h : Head) (job : Job) (env : Envelope) (ctx : Stroke)
    (f : Sample) : Sound True (s.retractFrame h job env ctx f) := by
  unfold State.retractFrame
  split
  · exact hs.lateFault h job env ctx _
  · split
    · exact hs.lateFault h job env _ _
    · split
      · exact hs.endStroke h job _ _ _
      · exact hs.setEngine h _ rfl

theorem deliver {s : State} (hs : Sound True s) (h : Head) (f : Sample) : Sound True (s.deliver h f) := by
  unfold State.deliver
  split
  case h_4 =>
    split
    case h_5 => exact hs.retractFrame h _ _ _ f
    case h_6 => exact hs
    all_goals exact hs.liveFrame h _ _ _ _ f _
  all_goals exact hs

end Sound

/-! ## Reset -/

/-- A part at its reset values but for what a link and a pin hold. -/
theorem sound_of_reset {s : State} (hframe : s = { State.reset with
    pending := s.pending, headA := s.headA, headB := s.headB })
    (hheads : ∀ h, UnitSame HeadUnit.reset (s.head h)) : Sound True s := by
  have hlaw : UnitLaw HeadUnit.reset := ⟨(fun h => nomatch h), snapshotLaw_default, toolLaw_reset⟩
  have hunits : ∀ h, UnitLaw (s.head h) := fun h => (hheads h).law hlaw
  have hforced : ∀ h, (s.head h).lines.override = .forceOn → s.map.mode = .edit := fun h ho =>
    nomatch (hheads h).override.symm.trans ho
  have hmap : MapLaw BoardMap.reset := ⟨fun _ => siteLaw_undefined, fun _ => pinLaw_blank, rfl, rfl, rfl⟩
  have hlib : LibraryLaw Library.reset :=
    ⟨by decide, (fun _ he => nomatch he), (fun _ he => nomatch he), rfl, rfl⟩
  have hclear : slotLaw WatchSlot.clear := by decide
  rw [hframe] at hunits hforced ⊢
  exact
    { queues := fun p => by cases p <;> exact queueLaw_nil false
      units := hunits, forced := hforced, library := hlib, map := hmap, recordsWf := rfl, verdictsWf := rfl
      slot0 := hclear, slot1 := hclear
      blocks := .inr (.inl rfl), swap := fun _ hp => nomatch hp }

/-! ## Every command -/

theorem keeps_partLaw : Keeps (Sound True) where
  port s p f hf hs := hs.modPort p f hf
  rest s q hs := hs.unread rfl
  tick s hs := by
    have htick : ∀ u : HeadUnit, UnitSame u (tickHead u) := fun u => ⟨rfl, rfl, rfl, rfl⟩
    have hidle : ∀ e, engineIdle (tickEngine e) = true → engineIdle e = true := fun e he => by
      cases e with
      | stroke ph => cases ph <;> exact he
      | _ => exact he
    have hheads := (hs.modHead_same .a tickHead (htick _) fun _ => hidle _).modHead_same .b tickHead (htick _)
      fun _ => hidle _
    exact hheads.unread rfl
  hardReset s _ := sound_of_reset rfl fun h => by cases h <;> exact ⟨rfl, rfl, rfl, rfl⟩
  restart s hs := hs.restarted
  setBlock size s hs := by
    unfold setBlockBody
    split
    · next hsize =>
      exact hs.sameUnits (fun p => by cases p <;> rfl) (fun h => by cases h <;> rfl) hs.library id hs.map hs.forced
        hs.recordsWf hs.verdictsWf hs.slot0 hs.slot1 hsize
    · exact hs
  fetchNotice p s hs := by
    unfold fetchNoticeBody
    split
    · exact hs.setQueue p (fun u => { u with queue := { items := [], overrun := false } }) (queueLaw_nil false)
    · next n rest hitems =>
      obtain ⟨hlength, hurgent⟩ := hs.queues p
      rw [hitems] at hlength hurgent
      exact hs.setQueue p (fun u => { u with queue := { items := rest, overrun := false } })
        ⟨(Nat.le_succ _).trans hlength, hurgent.tail⟩
  mapEdit s hs := by
    unfold mapEditBody
    split
    · exact hs
    · split
      · exact hs
      · exact hs.setMap { hs.map with } fun _ _ => rfl
  mapActivate s hs := by
    unfold mapActivateBody
    split
    · exact hs
    · split
      · exact hs
      · next hforced =>
        split
        · exact hs
        · refine hs.setMap { hs.map with } fun h ho => absurd ((s.forcedOn_iff).2 ?_) hforced
          cases h
          · exact .inl ho
          · exact .inr ho
  writeSite site f s hs := by
    rcases writeSiteBody_cases site f s with h | ⟨hmode, hbad, h⟩
    · rwa [h]
    · exact hs.edited (hs.map.setSite _ (writtenSite_siteLaw hbad)) (fun _ _ => hmode) h
  clearSite site s hs := by
    rcases clearSiteBody_cases site s with h | ⟨hmode, h⟩
    · rwa [h]
    · exact hs.edited (hs.map.setSite _ siteLaw_undefined) (fun _ _ => hmode) h
  writePins first count entries s hs _ := by
    rcases writePinsBody_cases first count entries s with h | ⟨hmode, hbad, h⟩
    · rwa [h]
    · refine hs.edited (MapLaw.writePins entries s _ hs.map hbad) (fun _ _ => ?_) h
      rw [(State.writePins_map entries s first.toNat).2]
      exact hmode
  setKeepout distance s hs := by
    unfold setKeepoutBody
    split
    · exact hs
    · split <;> exact hs.setMap { hs.map with } hs.forced
  lockSites first count s hs := by
    obtain ⟨i, m, h, -⟩ := lockSitesBody_setLocks first count s
    rw [h]
    exact hs.setLocks i m true
  unlockSites first count s hs := by
    obtain ⟨i, m, h⟩ := unlockSitesBody_setLocks first count s
    rw [h]
    exact hs.setLocks i m false
  disposeSite site s hs := by
    unfold disposeSiteBody
    split
    · exact hs
    · split
      · exact hs.setSiteState _ _
      · exact hs
  writeProfile pinType holeClass count seatForce points s hs hcount := by
    unfold writeProfileBody
    split
    · exact hs
    · split
      · exact hs
      · split
        · exact hs
        · next hfault =>
          rw [← hcount, ← List.length_map (f := entryPoint)] at hfault
          exact hs.setShadow _ fun q hq => by cases hq; exact profileLaw_of_no_fault hfault
  clearProfile pinType holeClass s hs := by
    unfold clearProfileBody
    split
    · exact hs
    · split
      · exact hs
      · exact hs.setShadow _ fun q hq => nomatch hq
  copyBank s hs := by
    unfold copyBankBody
    split
    · exact hs
    · exact hs.setLibrary hs.library.copied (copiedLibrary_swapPending s.library).symm.trans
  swapBanks s hs := by
    show Sound True (swapBanksState s)
    unfold swapBanksState
    split
    · exact hs
    · have hask : Sound False s.askSwap := { hs.weaken.setLibrary (l := s.library) hs.library id with
        library := { hs.library with }, swap := False.elim }
      exact hask.trySwap
  setTool head laneCount toolCode lanes s hs hl := by
    unfold setToolBody
    split
    · exact hs
    · next h _ =>
      split
      · exact hs
      · split
        · exact hs
        · next hrange =>
          dsimp only
          exact hs.modHead h _ ⟨(hs.units h).permit, (hs.units h).settings, toolLaw_of_taken hl hrange⟩ (hs.forced h)
            fun _ => id
  setHead head setting value s hs := by
    unfold setHeadBody
    split
    · split
      · next hj => exact hs.storeHead _ hj
      · exact hs
    all_goals exact hs
  keepSettings value s hs := by
    unfold keepSettingsBody
    split
    · exact hs.unread rfl
    · exact hs
  setLine head line value s hs := by
    unfold setLineBody
    split
    · exact hs
    · next h _ =>
      split
      · unfold setPermit
        split
        · exact hs
        · next o _ =>
          split
          · exact hs
          · next hactive =>
            split
            · exact hs
            · next hstop =>
              dsimp only
              refine hs.modLines h _ fun ho => ⟨?_, ?_⟩
              · exact Bool.eq_false_iff.2 fun h => hstop ⟨ho, h⟩
              · cases hmode : s.map.mode with
                | edit => rfl
                | active => exact absurd ⟨ho, hmode⟩ hactive
      · split
        · unfold setMark
          split
          · exact hs
          · dsimp only
            exact hs.modLines_same h _ rfl rfl
        · exact hs
  claim site kind wait h s hs := by
    unfold claimBody
    split
    · exact hs
    · exact hs.grant h _ _
    · split
      · exact hs.setWaiting h _
      · exact hs
  release h s hs := by
    unfold releaseBody
    split
    · exact hs
    · split
      · exact hs.releaseSite h _ _
      · exact hs
      · exact ((hs.toIdle h).releaseSite h _ _).trySwap
      · exact hs
  cancelWait h s hs := by
    unfold cancelWaitBody
    split
    · exact hs.setWaiting h _
    · exact hs
  arm h s hs := by
    unfold armBody
    split
    · exact hs
    · split
      · exact hs
      · split
        · exact hs
        · split
          · exact hs
          · exact hs.setEngine h _ rfl
  start h s hs := by
    unfold startBody
    split
    · split
      · exact hs
      · split
        · exact hs
        · split
          · exact hs
          · exact ((hs.setEngine h (.stroke .approach _ _ _) rfl).setSiteState _ _).setSilence h _
    all_goals exact hs
  abort h s hs := by
    unfold abortBody
    split
    · exact hs
    · exact hs.failComposition h _ _
    · exact (hs.toIdle h).trySwap
    · split
      · exact hs.conclude h _ _ _ .aborted
      · exact hs
  resume h s hs := by
    unfold resumeBody
    split
    · split
      · exact hs
      · exact hs.returnFromHeld h _ _ _ _
    all_goals exact hs
  headClear h s hs := by
    have hcleared := (hs.clearEngine h).setWaiting h none
    exact hcleared.modLines h (fun l => { l with stop := false }) fun ho => ⟨rfl, hcleared.forced h ho⟩
  armWatch slot site lane s hs := by
    unfold armWatchBody
    split
    · exact hs
    · split
      · exact hs
      · split
        · exact hs
        · exact hs.setSlot _ (by simp [slotLaw])
  disarmWatch slot s hs := by
    unfold disarmWatchBody
    split
    · exact hs
    · split
      · exact hs
      · exact hs.setSlot _ (by decide)
  frame h f s hs := by
    have hlink : Sound True (s.modHead h (fun u => { u with link := acceptedLink u f })) :=
      hs.modHead_same h _ ⟨rfl, rfl, rfl, rfl⟩ fun _ => id
    exact hlink.deliver h f
  idle h s hs := hs.modHead_same h _ ⟨rfl, rfl, rfl, rfl⟩ fun _ => id
  silence h s t hs ht := by
    have hstopped := hs.setSilence h none
    unfold execSilenceTimerExpiry at ht
    split at ht
    · split at ht
      · split at ht <;> cases ht
        · exact hs.faultStroke h _ _ _ _ _
        · exact hs.lateFault h _ _ _ _
        · exact hstopped
      all_goals cases ht; exact hstopped
    · cases ht
      exact hs
  dwell h s t hs ht := by
    unfold execDwellTimerExpiry at ht
    split at ht
    · split at ht <;> cases ht
      · exact hs.conclude h _ _ _ _
      · exact hs
    all_goals cases ht; exact hs
  pulse h s hs := hs.modLines_same h _ rfl rfl
  completion h s hs := by
    unfold State.completeComposition
    split
    · split
      · exact hs.failComposition h _ _
      · exact (hs.setEngine h (.armed _ _) rfl).postHead h _
    all_goals exact hs
  reevaluation h s w hs _ := by
    unfold State.reevaluate
    split
    · exact ((hs.setWaiting h none).grant h w.site _).postHead h _
    · exact (hs.setWaiting h none).postHead h _
    · exact hs.setWaiting h _
  interlock h level s hs :=
    (hs.modLines_same h (fun l => { l with interlockHigh := level }) rfl rfl).interlockMoved h _

/-- Settles O55: each shared operation keeps the laws, and a swap that an engine's return to IDLE asks for follows in the
same event. -/
theorem partLawKept : Obligations.PartLawKept := fun s t hs ht =>
  (sound_iff_partLaw t).1 (keeps_partLaw.step s t ((sound_iff_partLaw s).2 hs) ht)

end Sys2Proof.Machine
end

section
/-! PROOF. Every step keeps the laws of claims, waits, held sites, keep-out, locks and MAP_EDIT. -/

namespace Sys2Proof.Machine

theorem otherHead_otherHead (h : Head) : otherHead (otherHead h) = h := by cases h <;> rfl

theorem otherHead_ne (h : Head) : otherHead h ≠ h := by cases h <;> exact fun hx => nomatch hx

theorem head_eq_or_other (h k : Head) : k = h ∨ k = otherHead h := by cases h <;> cases k <;> simp [otherHead]

/-! ## The laws, the same for both heads -/

/-- The laws of `ArbiterLaw`, stated once for either head. -/
structure Arbited (s : State) : Prop where
  heads : ∀ h, HeadLaw s h
  held : ∀ i, siteHeld (s.site i) = true → ∃ h c, (s.head h).claim = some c ∧ c.site = i
  free : ∀ i, siteHeld (s.site i) = false → (s.site i).holder = none ∧ (s.site i).prior = none
  oneWait : ∀ h, (s.head h).waiting.isSome = true → (s.head (otherHead h)).waiting = none
  apart : ∀ h c d, (s.head h).claim = some c → (s.head (otherHead h)).claim = some d →
    c.site ≠ d.site ∧ s.conflict c.site d.site = false
  locks : ∀ i, s.locked i = true → siteHeld (s.site i) = false
  edit : s.map.mode = .edit →
    (∀ i, siteHeld (s.site i) = false) ∧ ∀ h, (s.head h).waiting = none ∧ (s.head h).engine = .idle

theorem arbited_iff_arbiterLaw (s : State) : Arbited s ↔ ArbiterLaw s := by
  constructor
  · intro hs
    refine ⟨hs.heads .a, hs.heads .b, hs.held, hs.free, ?_, fun c d hc hd => hs.apart .a c d hc hd, hs.locks, fun hm => ?_⟩
    · cases hw : s.headA.waiting with
      | none => exact .inl rfl
      | some w => exact .inr (hs.oneWait .a (by simp [State.head, hw]))
    · obtain ⟨hsites, hheads⟩ := hs.edit hm
      exact ⟨hsites, (hheads .a).1, (hheads .b).1, (hheads .a).2, (hheads .b).2⟩
  · intro hs
    refine ⟨fun h => ?_, hs.held, hs.free, fun h hw => ?_, fun h c d hc hd => ?_, hs.locks, fun hm => ?_⟩
    · cases h
      · exact hs.headA
      · exact hs.headB
    · cases h
      · exact hs.oneWait.resolve_left fun hn => by simp [State.head, hn] at hw
      · exact hs.oneWait.resolve_right fun hn => by simp [State.head, hn] at hw
    · cases h
      · exact hs.apart c d hc hd
      · obtain ⟨hne, hconflict⟩ := hs.apart d c hd hc
        exact ⟨hne.symm, (s.conflict_comm _ _).trans hconflict⟩
    · obtain ⟨hsites, hwA, hwB, heA, heB⟩ := hs.edit hm
      refine ⟨hsites, fun h => ?_⟩
      cases h
      · exact ⟨hwA, heA⟩
      · exact ⟨hwB, heB⟩

/-- Nothing is held, nothing waits and both engines are IDLE. -/
structure Quiet (s : State) : Prop where
  sites : ∀ i, siteHeld (s.site i) = false ∧ (s.site i).holder = none ∧ (s.site i).prior = none
  heads : ∀ h, (s.head h).claim = none ∧ (s.head h).waiting = none ∧ (s.head h).engine = .idle

theorem Quiet.arbited {s : State} (hs : Quiet s) : Arbited s where
  heads h :=
    { holds := fun c hc => nomatch (hs.heads h).1.symm.trans hc
      works := fun job hj => by
        rw [(hs.heads h).2.2] at hj
        cases hj
      waits := fun _ => (hs.heads h).1 }
  held i hi := nomatch (hs.sites i).1.symm.trans hi
  free i _ := (hs.sites i).2
  oneWait h _ := (hs.heads (otherHead h)).2.1
  apart h c d hc _ := nomatch (hs.heads h).1.symm.trans hc
  locks i _ := (hs.sites i).1
  edit _ := ⟨fun i => (hs.sites i).1, fun h => (hs.heads h).2⟩

theorem siteHeld_claimed {x : Site} (hx : x.state = .claimed) : siteHeld x = true := by rw [siteHeld, hx]

theorem siteHeld_pressing {x : Site} (hx : x.state = .pressing) : siteHeld x = true := by rw [siteHeld, hx]

namespace Arbited

variable {s : State} (hs : Arbited s)
include hs

theorem claim_held {h : Head} {c : Claim} (hc : (s.head h).claim = some c) : siteHeld (s.site c.site) = true := by
  obtain ⟨-, -, -, hstate⟩ := (hs.heads h).holds c hc
  split at hstate
  · exact siteHeld_pressing hstate
  · exact siteHeld_claimed hstate

theorem claim_active {h : Head} {c : Claim} (hc : (s.head h).claim = some c) : s.map.mode = .active := by
  cases hm : s.map.mode with
  | active => rfl
  | edit => exact nomatch ((hs.edit hm).1 c.site).symm.trans (hs.claim_held hc)

theorem engine_idle_of_no_claim {h : Head} (hc : (s.head h).claim = none) : (s.head h).engine = .idle := by
  cases he : engineJob (s.head h).engine with
  | some job => exact nomatch hc.symm.trans ((hs.heads h).works job he)
  | none =>
    cases hengine : (s.head h).engine with
    | idle => rfl
    | _ => rw [hengine] at he; cases he

theorem quiet (hheads : ∀ h, (s.head h).claim = none ∧ (s.head h).waiting = none) : Quiet s := by
  have hsites : ∀ i, siteHeld (s.site i) = false := fun i => by
    cases hi : siteHeld (s.site i) with
    | false => rfl
    | true =>
      obtain ⟨h, c, hc, -⟩ := hs.held i hi
      exact nomatch (hheads h).1.symm.trans hc
  exact ⟨fun i => ⟨hsites i, hs.free i (hsites i)⟩, fun h =>
    ⟨(hheads h).1, (hheads h).2, hs.engine_idle_of_no_claim (hheads h).1⟩⟩

theorem quiet_of_edit (hm : s.map.mode = .edit) : Quiet s := by
  refine hs.quiet fun h => ⟨?_, ((hs.edit hm).2 h).1⟩
  cases hc : (s.head h).claim with
  | none => rfl
  | some c => exact nomatch hm.symm.trans (hs.claim_active hc)

end Arbited

/-! ## What the laws read -/

/-- Of the claim, the wait and the work of an engine nothing has changed that the laws read. -/
structure HeadAlike (u v : HeadUnit) : Prop where
  claim : v.claim = u.claim
  waiting : v.waiting.isSome = u.waiting.isSome
  job : engineJob v.engine = engineJob u.engine
  runs : strokeRuns v.engine = strokeRuns u.engine

theorem HeadAlike.refl (u : HeadUnit) : HeadAlike u u := ⟨rfl, rfl, rfl, rfl⟩

theorem HeadAlike.trans {u v w : HeadUnit} (h : HeadAlike u v) (h' : HeadAlike v w) : HeadAlike u w :=
  ⟨h'.claim.trans h.claim, h'.waiting.trans h.waiting, h'.job.trans h.job, h'.runs.trans h.runs⟩

theorem HeadAlike.idle {u v : HeadUnit} (h : HeadAlike u v) (hu : u.engine = .idle) : v.engine = .idle := by
  have hjob := h.job
  rw [hu] at hjob
  cases hv : v.engine with
  | idle => rfl
  | _ => rw [hv] at hjob; cases hjob

/-- Nothing has changed that the laws read. -/
structure Alike (s t : State) : Prop where
  map : t.map = s.map
  heads : ∀ h, HeadAlike (s.head h) (t.head h)

theorem Arbited.alike {s t : State} (hs : Arbited s) (ht : Alike s t) : Arbited t := by
  obtain ⟨hmap, hheads⟩ := ht
  have hsite : ∀ i, t.site i = s.site i := fun i => by rw [State.site, hmap]; rfl
  have hlocked : ∀ i, t.locked i = s.locked i := fun i => by rw [State.locked, hmap]; rfl
  have hconflict : ∀ i j, t.conflict i j = s.conflict i j := fun i j => by
    unfold State.conflict
    rw [hmap, hsite, hsite]
  have hwaiting : ∀ h, (s.head h).waiting = none → (t.head h).waiting = none := fun h hn => by
    have := (hheads h).waiting
    rwa [hn, Option.isSome_none, Option.isSome_eq_false_iff, Option.isNone_iff_eq_none] at this
  refine
    { heads := fun h => ?_
      held := fun i hi => by
        rw [hsite] at hi
        simpa only [(hheads _).claim] using hs.held i hi
      free := fun i hi => by rw [hsite] at hi ⊢; exact hs.free i hi
      oneWait := fun h hw => by
        rw [(hheads h).waiting] at hw
        exact hwaiting _ (hs.oneWait h hw)
      apart := fun h c d hc hd => by
        rw [(hheads _).claim] at hc hd
        rw [hconflict]
        exact hs.apart h c d hc hd
      locks := fun i hi => by rw [hsite]; exact hs.locks i (hlocked i ▸ hi)
      edit := fun hm => by
        rw [hmap] at hm
        obtain ⟨hsites, hidle⟩ := hs.edit hm
        exact ⟨fun i => hsite i ▸ hsites i, fun h => ⟨hwaiting h (hidle h).1, (hheads h).idle (hidle h).2⟩⟩ }
  obtain ⟨hclaim, hwait, hjob, hruns⟩ := hheads h
  exact
    { holds := fun c hc => by rw [hsite, hruns]; exact (hs.heads h).holds c (hclaim.symm.trans hc)
      works := fun job hj => hclaim.trans ((hs.heads h).works job (hjob.symm.trans hj))
      waits := fun hw => hclaim.trans ((hs.heads h).waits (hwait.symm.trans hw)) }

/-- A head works on a job in a stroke. -/
def Working (s : State) (h : Head) (job : Job) : Prop :=
  engineJob (s.head h).engine = some job ∧ strokeRuns (s.head h).engine = true

theorem working_of_stroke {s : State} {h : Head} {ph : Phase} {job : Job} {env : Envelope} {ctx : Stroke}
    (he : (s.head h).engine = .stroke ph job env ctx) : Working s h job := by
  rw [Working, he]
  exact ⟨rfl, rfl⟩

namespace Alike

theorem refl (s : State) : Alike s s := ⟨rfl, fun _ => .refl _⟩

theorem trans {s t u : State} (ht : Alike s t) (hu : Alike t u) : Alike s u :=
  ⟨hu.map.trans ht.map, fun h => (ht.heads h).trans (hu.heads h)⟩

section
variable {s t : State} (ht : Alike s t)
include ht

/-- A state whose map and heads are those of `t`. -/
theorem beside {u : State} (hmap : u.map = t.map) (hheads : ∀ h, u.head h = t.head h) : Alike s u :=
  ht.trans ⟨hmap, fun h => hheads h ▸ .refl _⟩

theorem modHead (h : Head) (f : HeadUnit → HeadUnit) (hf : HeadAlike (t.head h) (f (t.head h))) :
    Alike s (t.modHead h f) := by
  refine ht.trans ⟨t.modHead_map h f, fun k => ?_⟩
  rw [State.head_modHead]
  split
  · next hk => rw [hk]; exact hf
  · exact .refl _

theorem modLines (h : Head) (f : Lines → Lines) : Alike s (t.modLines h f) := ht.modHead h _ ⟨rfl, rfl, rfl, rfl⟩

theorem assertStop (h : Head) : Alike s (t.assertStop h) := ht.modLines h _

theorem setSilence (h : Head) (n : Option Nat) : Alike s (t.setSilence h n) := ht.modHead h _ ⟨rfl, rfl, rfl, rfl⟩

/-- An engine that goes on with its job. -/
theorem setEngine (h : Head) (e : Engine) (hj : engineJob e = engineJob (s.head h).engine)
    (hr : strokeRuns e = strokeRuns (s.head h).engine) : Alike s (t.setEngine h e) :=
  ht.modHead h _ ⟨rfl, rfl, hj.trans (ht.heads h).job.symm, hr.trans (ht.heads h).runs.symm⟩

/-- A stroke that goes on in another state. -/
theorem setStroke {h : Head} {job : Job} (hw : Working s h job) (ph : Phase) (env : Envelope) (ctx : Stroke) :
    Alike s (t.setEngine h (.stroke ph job env ctx)) := ht.setEngine h _ hw.1.symm hw.2.symm

theorem modPort (p : Port) (f : PortUnit → PortUnit) : Alike s (t.modPort p f) :=
  ht.beside (t.modPort_map p f) fun h => t.modPort_head p f h

theorem postHead (h : Head) (n : Notice) : Alike s (t.postHead h n) :=
  ht.beside (t.postHead_map h n) fun k => t.postHead_head h n k

theorem setSlot (k : Nat) (w : WatchSlot) : Alike s (t.setSlot k w) :=
  ht.beside (t.setSlot_map k w) fun h => by
    unfold State.setSlot
    split <;> cases h <;> rfl

theorem verdictEvent (h : Head) (job : Job) (env : Envelope) (ctx : Stroke) (o : StrokeOutcome) (isFault : Bool) :
    Alike s (t.verdictEvent h job env ctx o isFault) :=
  ht.beside (by rw [State.verdictEvent_frame]) fun k => by
    rw [State.verdictEvent_frame]
    cases k <;> rfl

theorem trySwap : Alike s t.trySwap := by
  unfold State.trySwap
  split
  · exact ht.beside rfl fun h => by cases h <;> rfl
  · exact ht

theorem told {h : Head} {u : State} (hu : Told t h u) : Alike s u := by
  obtain ⟨⟨pulse, hframe⟩, -, -⟩ := hu
  rw [hframe]
  have hslots : Alike s { t with slot0 := u.slot0, slot1 := u.slot1 } := ht.beside rfl fun k => by cases k <;> rfl
  exact hslots.modLines h _

section
variable {h : Head} {job : Job} (hw : Working s h job)
include hw

theorem conclude (env : Envelope) (ctx : Stroke) (o : StrokeOutcome) : Alike s (t.conclude h job env ctx o) :=
  (ht.verdictEvent h job env ctx o false).setStroke hw _ _ _

theorem faultStroke (env : Envelope) (ctx : Stroke) (o : StrokeOutcome) (b : Breach) :
    Alike s (t.faultStroke h job env ctx o b) :=
  (((ht.verdictEvent h job env (faultContext ctx o b) o true).assertStop h).setStroke hw _ _ _).setSilence h none

theorem lateFault (env : Envelope) (ctx : Stroke) (o : StrokeOutcome) : Alike s (t.lateFault h job env ctx o) :=
  (((ht.assertStop h).setStroke hw _ _ _).setSilence h none).postHead h _

theorem turns {P : Prop} {held : Bool} {env : Envelope} {u : State} (hu : Turns P t h held job env u) : Alike s u := by
  cases hu with
  | faults ctx o b => exact ht.faultStroke hw env ctx o b
  | concludes ctx o => exact ht.conclude hw env ctx o
  | stays l ctx => exact ht.setStroke hw _ env ctx

theorem liveFrame (held : Bool) (env : Envelope) (ctx : Stroke) (f : Sample) (l : Live) :
    Alike s (t.liveFrame h held l job env ctx f) := by
  obtain ⟨u, htold, hturns⟩ := t.liveFrame_turns h held job env ctx f l
  exact (ht.told htold).turns hw hturns

theorem hold (l : Live) (env : Envelope) (ctx : Stroke) : Alike s (t.hold h l job env ctx) :=
  (ht.setStroke hw _ _ _).postHead h _

theorem returnFromHeld (l : Live) (env : Envelope) (ctx : Stroke) : Alike s (t.returnFromHeld h l job env ctx) :=
  (ht.setStroke hw _ _ _).postHead h _

theorem interlockAbort (env : Envelope) (ctx : Stroke) : Alike s (t.interlockAbort h job env ctx) :=
  (ht.postHead h _).conclude hw env ctx .aborted

end

end

variable (s : State) (h : Head)

theorem interlockOn : Alike s (s.interlockOn h) := by
  unfold State.interlockOn
  split
  · next he =>
    have hw := working_of_stroke he
    split
    · exact (Alike.refl s).interlockAbort hw _ _
    · exact (Alike.refl s).hold hw _ _ _
    · exact (Alike.refl s).hold hw _ _ _
    all_goals exact .refl s
  all_goals exact .refl s

theorem interlockOff : Alike s (s.interlockOff h) := by
  unfold State.interlockOff
  split
  · next he _ => exact (Alike.refl s).returnFromHeld (working_of_stroke he) _ _ _
  · exact .refl s

theorem interlockMoved (before : Bool) : Alike s (s.interlockMoved h before) := by
  unfold State.interlockMoved
  split
  · exact .refl s
  · split
    · exact interlockOn s h
    · exact interlockOff s h

theorem actionChanged : Alike s (s.actionChanged h) := by
  unfold State.actionChanged
  split
  · next he =>
    have hw := working_of_stroke he
    split
    · exact (Alike.refl s).returnFromHeld hw _ _ _
    · exact (Alike.refl s).interlockAbort hw _ _
    all_goals exact .refl s
  all_goals exact .refl s

theorem storeHead (g : Setting) (v : Nat) : Alike s (s.storeHead h g v) := by
  have hstored := (Alike.refl s).modHead h (fun u => { u with settings := storeSetting u.settings g v })
    ⟨rfl, rfl, rfl, rfl⟩
  unfold State.storeHead
  cases g with
  | interlockPolarity => exact hstored.trans (interlockMoved _ h _)
  | interlockAction =>
    dsimp only
    split
    · exact hstored
    · exact hstored.trans (actionChanged _ h)
  | _ => exact hstored

end Alike

/-! ## A head whose work ends -/

/-- What the laws ask of the fate of a head's site: it stays while the engine is out of a stroke; it is the site of the head's
claim, and is released into a state that is not held. -/
def Fits (s : State) (h : Head) : SiteFate → Prop
  | .untouched => strokeRuns (s.head h).engine = false
  | .claimedAgain i => ∃ c, (s.head h).claim = some c ∧ c.site = i
  | .released i st => (∃ c, (s.head h).claim = some c ∧ c.site = i) ∧ st ≠ .claimed ∧ st ≠ .pressing

theorem siteHeld_eq_true {x : Site} : siteHeld x = true ↔ x.state = .claimed ∨ x.state = .pressing := by
  unfold siteHeld
  split <;> simp_all

theorem siteHeld_eq_false {x : Site} : siteHeld x = false ↔ x.state ≠ .claimed ∧ x.state ≠ .pressing := by
  rw [← Bool.not_eq_true, siteHeld_eq_true, not_or]

theorem SiteFate.site_place (fate : SiteFate) (s : State) (i : Nat) :
    (fate.site s i).x = (s.site i).x ∧ (fate.site s i).y = (s.site i).y := by
  unfold SiteFate.site
  split
  · exact ⟨rfl, rfl⟩
  · split <;> exact ⟨rfl, rfl⟩
  · split <;> exact ⟨rfl, rfl⟩

/-- A site that is held after its fate was held before, and is not one that the fate releases. -/
theorem SiteFate.held_before {fate : SiteFate} {s : State} {h : Head} {i : Nat} (hs : Arbited s) (hfit : Fits s h fate)
    (hi : siteHeld (fate.site s i) = true) :
    siteHeld (s.site i) = true ∧ (fate.releases = true → ∀ c, (s.head h).claim = some c → c.site ≠ i) := by
  cases fate with
  | untouched => exact ⟨hi, fun h => nomatch h⟩
  | claimedAgain j =>
    refine ⟨?_, fun h => nomatch h⟩
    obtain ⟨c, hc, rfl⟩ := hfit
    by_cases hj : i = c.site
    · rw [hj]
      exact hs.claim_held hc
    · simpa only [SiteFate.site, if_neg hj] using hi
  | released j st =>
    obtain ⟨⟨c, hc, rfl⟩, hst⟩ := hfit
    by_cases hj : i = c.site
    · rw [SiteFate.site, if_pos hj] at hi
      exact absurd (siteHeld_eq_true.1 hi) (not_or.2 hst)
    · rw [SiteFate.site, if_neg hj] at hi
      refine ⟨hi, fun _ d hd => ?_⟩
      cases hc.symm.trans hd
      exact Ne.symm hj

/-- A site that a fate leaves free, and that was held, has been released. -/
theorem SiteFate.free_after {fate : SiteFate} {s : State} {i : Nat} (hs : Arbited s)
    (hi : siteHeld (fate.site s i) = false) : (fate.site s i).holder = none ∧ (fate.site s i).prior = none := by
  cases fate with
  | untouched => exact hs.free i hi
  | claimedAgain j =>
    by_cases hj : i = j
    · rw [SiteFate.site, if_pos hj] at hi
      exact absurd rfl (siteHeld_eq_false.1 hi).1
    · rw [SiteFate.site, if_neg hj] at hi ⊢
      exact hs.free i hi
  | released j st =>
    by_cases hj : i = j
    · rw [SiteFate.site, if_pos hj]
      exact ⟨rfl, rfl⟩
    · rw [SiteFate.site, if_neg hj] at hi ⊢
      exact hs.free i hi

/-- The site of another claim is not touched. -/
theorem SiteFate.site_of_other {fate : SiteFate} {s : State} {h : Head} {d : Claim} (hs : Arbited s)
    (hfit : Fits s h fate) (hd : (s.head (otherHead h)).claim = some d) : fate.site s d.site = s.site d.site := by
  cases fate with
  | untouched => rfl
  | claimedAgain j =>
    obtain ⟨c, hc, rfl⟩ := hfit
    exact if_neg (hs.apart h c d hc hd).1.symm
  | released j st =>
    obtain ⟨⟨c, hc, rfl⟩, -⟩ := hfit
    exact if_neg (hs.apart h c d hc hd).1.symm

/-- The engine of a head is IDLE, its site has met its fate, its claim is gone where the site was released, and the other head
is as it was. -/
structure Retired (s : State) (h : Head) (fate : SiteFate) (t : State) : Prop where
  map : t.map = { s.map with sites := t.map.sites }
  sites : ∀ i, t.site i = fate.site s i
  engine : (t.head h).engine = .idle
  claim : (t.head h).claim = if fate.releases then none else (s.head h).claim
  waiting : (t.head h).waiting.isSome = true → (s.head h).waiting.isSome = true
  other : HeadAlike (s.head (otherHead h)) (t.head (otherHead h))

theorem Retired.arbited {s t : State} {h : Head} {fate : SiteFate} (ht : Retired s h fate t) (hs : Arbited s)
    (hfit : Fits s h fate) : Arbited t := by
  obtain ⟨hmap, hsites, hengine, hclaim, hwaiting, hother⟩ := ht
  have hclaims : ∀ c, (t.head h).claim = some c → fate.releases = false ∧ (s.head h).claim = some c := fun c hc => by
    rw [hclaim] at hc
    split at hc
    · cases hc
    · next hr => exact ⟨by simpa using hr, hc⟩
  have hheld : ∀ i, siteHeld (t.site i) = true → siteHeld (s.site i) = true := fun i hi =>
    (SiteFate.held_before hs hfit (hsites i ▸ hi)).1
  have hlocked : ∀ i, t.locked i = s.locked i := fun i => by rw [State.locked, hmap]; rfl
  have hconflict : ∀ i j, t.conflict i j = s.conflict i j := fun i j => by
    have hplace : ∀ k, (t.site k).x = (s.site k).x ∧ (t.site k).y = (s.site k).y := fun k =>
      hsites k ▸ SiteFate.site_place fate s k
    unfold State.conflict
    rw [(hplace i).1, (hplace i).2, (hplace j).1, (hplace j).2, hmap]
  have hown : HeadLaw t h :=
    { holds := fun c hc => by
        obtain ⟨hr, hc⟩ := hclaims c hc
        obtain ⟨hi, hholder, hprior, hstate⟩ := (hs.heads h).holds c hc
        rw [hsites, hengine]
        cases fate with
        | untouched =>
          rw [show strokeRuns (s.head h).engine = false from hfit] at hstate
          exact ⟨hi, hholder, hprior, hstate⟩
        | claimedAgain j =>
          obtain ⟨d, hd, rfl⟩ := hfit
          cases hc.symm.trans hd
          rw [SiteFate.site, if_pos rfl]
          exact ⟨hi, hholder, hprior, rfl⟩
        | released j st => cases hr
      works := fun job hj => by
        rw [hengine] at hj
        cases hj
      waits := fun hw => by
        rw [hclaim, (hs.heads h).waits (hwaiting hw)]
        exact ite_self _ }
  have hotherLaw : HeadLaw t (otherHead h) :=
    { holds := fun c hc => by
        rw [hother.claim] at hc
        rw [hsites, SiteFate.site_of_other hs hfit hc, hother.runs]
        exact (hs.heads _).holds c hc
      works := fun job hj => hother.claim.trans ((hs.heads _).works job (hother.job.symm.trans hj))
      waits := fun hw => hother.claim.trans ((hs.heads _).waits (hother.waiting.symm.trans hw)) }
  have hnone : ∀ k, (s.head k).waiting = none → (t.head k).waiting = none := fun k hn => by
    rcases head_eq_or_other h k with rfl | rfl
    · cases hw : (t.head k).waiting with
      | none => rfl
      | some w =>
        have := hwaiting (by rw [hw]; rfl)
        rw [hn] at this
        cases this
    · have := hother.waiting
      rwa [hn, Option.isSome_none, Option.isSome_eq_false_iff, Option.isNone_iff_eq_none] at this
  have hsome : ∀ k, (t.head k).waiting.isSome = true → (s.head k).waiting.isSome = true := fun k hw => by
    rcases head_eq_or_other h k with rfl | rfl
    · exact hwaiting hw
    · exact hother.waiting.symm.trans hw
  have hkept : ∀ k c, (t.head k).claim = some c → (s.head k).claim = some c := fun k c hc => by
    rcases head_eq_or_other h k with rfl | rfl
    · exact (hclaims c hc).2
    · exact hother.claim.symm.trans hc
  refine
    { heads := fun k => ?_
      held := fun i hi => ?_
      free := fun i hi => ?_
      oneWait := fun k hw => hnone _ (hs.oneWait k (hsome k hw))
      apart := fun k c d hc hd => hconflict _ _ ▸ hs.apart k c d (hkept _ c hc) (hkept _ d hd)
      locks := fun i hi => ?_
      edit := fun hm => ?_ }
  · rcases head_eq_or_other h k with rfl | rfl
    · exact hown
    · exact hotherLaw
  · rw [hsites] at hi
    obtain ⟨hbefore, hnot⟩ := SiteFate.held_before hs hfit hi
    obtain ⟨k, c, hc, rfl⟩ := hs.held i hbefore
    refine ⟨k, c, ?_, rfl⟩
    rcases head_eq_or_other h k with rfl | rfl
    · rw [hclaim, if_neg fun hr => hnot hr c hc rfl]
      exact hc
    · exact hother.claim.trans hc
  · rw [hsites] at hi ⊢
    exact SiteFate.free_after hs hi
  · rw [hlocked] at hi
    cases hi' : siteHeld (t.site i) with
    | false => rfl
    | true => exact nomatch (hs.locks i hi).symm.trans (hheld i hi')
  · rw [hmap] at hm
    obtain ⟨hfree, hidle⟩ := hs.edit hm
    refine ⟨fun i => ?_, fun k => ⟨hnone k (hidle k).1, ?_⟩⟩
    · cases hi' : siteHeld (t.site i) with
      | false => rfl
      | true => exact nomatch (hfree i).symm.trans (hheld i hi')
    · rcases head_eq_or_other h k with rfl | rfl
      · exact hengine
      · exact hother.idle (hidle _).2

theorem headAlike_waitAfter (released : Bool) (u : HeadUnit) :
    HeadAlike u { u with waiting := waitAfter released u.waiting } :=
  ⟨rfl, by cases released <;> simp [waitAfter], rfl, rfl⟩

theorem EndsIdle.retired {s t : State} {h : Head} {fate : SiteFate} {ns : List Notice} (ht : EndsIdle s h fate ns t) :
    Retired s h fate t where
  map := by rw [ht.frame]
  sites := ht.sites
  engine := by rw [ht.own]
  claim := by rw [ht.own]
  waiting := by rw [ht.own]; exact id
  other := ht.other ▸ headAlike_waitAfter _ _

theorem EndsIdle.arbited {s t : State} {h : Head} {fate : SiteFate} {ns : List Notice} (ht : EndsIdle s h fate ns t)
    (hs : Arbited s) (hfit : Fits s h fate) : Arbited t := ht.retired.arbited hs hfit

/-- A site settled by a head whose engine is IDLE. -/
theorem Settles.retired {s t : State} {h : Head} {fate : SiteFate} (ht : Settles s h fate t)
    (he : (s.head h).engine = .idle) : Retired s h fate t where
  map := by rw [ht.frame]
  sites := ht.sites
  engine := by rw [ht.own]; exact he
  claim := by rw [ht.own]
  waiting := by rw [ht.own]; exact id
  other := ht.other ▸ headAlike_waitAfter _ _

end Sys2Proof.Machine
end

section
/-! PROOF. The claims that are made, granted and given up, and every command. -/

namespace Sys2Proof.Machine

/-! ## The end of a stroke -/

theorem returnState_not_held (x : Site) : returnState x ≠ .claimed ∧ returnState x ≠ .pressing := by
  unfold returnState priorSite
  split <;> exact ⟨fun h => (nomatch h), fun h => (nomatch h)⟩

/-- The state in which a stroke releases its site is not a held one (R131). -/
theorem siteAfter_not_held {k : Kind} {o : StrokeOutcome} {contact cleared : Bool} {back st : SiteState}
    (hback : back ≠ .claimed ∧ back ≠ .pressing) (h : siteAfter k o contact cleared back = some st) :
    st ≠ .claimed ∧ st ≠ .pressing := by
  have hcut : ∀ k : Kind, (match k with | .press => SiteState.partialIn | .verify => .seated) ≠ .claimed ∧
      (match k with | .press => SiteState.partialIn | .verify => .seated) ≠ .pressing := fun k => by
    cases k <;> exact ⟨fun h => (nomatch h), fun h => (nomatch h)⟩
  unfold siteAfter at h
  cases o
  case aborted =>
    dsimp only at h
    split at h
    · cases h; exact hcut k
    · split at h
      · cases h; exact hback
      · cases h
  case linkLost =>
    dsimp only at h
    split at h <;> cases h
    · exact hcut k
    · exact hback
  case sensorFault =>
    dsimp only at h
    split at h <;> cases h
    · exact hcut k
    · exact hback
  case noContact => cases h; exact hback
  case noOutcome => cases h; exact hback
  all_goals cases h; exact ⟨fun h => (nomatch h), fun h => (nomatch h)⟩

/-- The fate of a stroke's site, from the state that it is released in. -/
def fateOf (site : Nat) : Option SiteState → SiteFate
  | some st => .released site st
  | none => .claimedAgain site

theorem State.settleSite_fate (s : State) (h : Head) (job : Job) (st : Option SiteState) :
    Settles s h (fateOf job.site st) (s.settleSite h job st) := by
  cases st with
  | some st => exact s.releaseSite_settles h job.site st
  | none => exact s.setSiteState_settles h job.site

theorem Arbited.fits_fateOf {s : State} (hs : Arbited s) {h : Head} {job : Job}
    (hj : engineJob (s.head h).engine = some job) {st : Option SiteState}
    (hst : ∀ x, st = some x → x ≠ .claimed ∧ x ≠ .pressing) : Fits s h (fateOf job.site st) := by
  have hclaim : ∃ c, (s.head h).claim = some c ∧ c.site = job.site := ⟨_, (hs.heads h).works job hj, rfl⟩
  cases st with
  | some x => exact ⟨hclaim, hst x rfl⟩
  | none => exact hclaim

namespace Arbited

variable {s : State} (hs : Arbited s) {h : Head}
include hs

theorem endStroke {job : Job} (hj : engineJob (s.head h).engine = some job) (ctx : Stroke) (o : StrokeOutcome)
    (cleared : Bool) : Arbited (s.endStroke h job ctx o cleared) :=
  ((s.settleSite_fate h job _).idled.2 _).endsIdle.1.arbited hs
    (hs.fits_fateOf hj fun _ hx => siteAfter_not_held (returnState_not_held _) hx)

/-- An engine out of a stroke that returns to IDLE. -/
theorem toIdle_trySwap (hr : strokeRuns (s.head h).engine = false) : Arbited (s.toIdle h).trySwap :=
  (s.untouched_settles h).idled.1.endsIdle.1.arbited hs hr

theorem failComposition (hr : strokeRuns (s.head h).engine = false) (job : Job) (f : CompositionFailure) :
    Arbited (s.failComposition h job f).trySwap :=
  ((s.untouched_settles h).idled.2 _).endsIdle.1.arbited hs hr

theorem releaseSite {c : Claim} (hc : (s.head h).claim = some c) (he : (s.head h).engine = .idle) (x : Site) :
    Arbited (s.releaseSite h c.site (returnState x)) :=
  ((s.releaseSite_settles h c.site _).retired he).arbited hs ⟨⟨c, hc, rfl⟩, returnState_not_held x⟩

theorem releaseArmed {c : Claim} (hc : (s.head h).claim = some c) (x : Site) :
    Arbited ((s.toIdle h).releaseSite h c.site (returnState x)).trySwap :=
  (s.releaseArmed_endsIdle h c.site _).1.arbited hs ⟨⟨c, hc, rfl⟩, returnState_not_held x⟩

theorem releaseClaim_idle (he : (s.head h).engine = .idle) : Arbited (s.releaseClaim h) := by
  unfold State.releaseClaim
  split
  · next c hc => exact hs.releaseSite hc he _
  · exact hs

omit hs in
/-- The claim of an engine out of a stroke is released, or there is none. -/
theorem releaseClaim_settles (hr : strokeRuns (s.head h).engine = false) :
    ∃ fate, Settles s h fate (s.releaseClaim h) ∧ Fits s h fate := by
  unfold State.releaseClaim
  split
  · next c hc => exact ⟨_, s.releaseSite_settles h c.site _, ⟨c, hc, rfl⟩, returnState_not_held _⟩
  · exact ⟨_, s.untouched_settles h, hr⟩

/-! ## Claims made (R37, R38, R46) -/

/-- A wait that is removed, or that a head without a claim begins or goes on with while the other does not wait. -/
theorem setWaiting (w : Option Wait)
    (hw : w.isSome = true →
      s.map.mode = .active ∧ (s.head h).claim = none ∧ (s.head (otherHead h)).waiting = none) :
    Arbited (s.setWaiting h w) := by
  have hsites : ∀ i, (s.setWaiting h w).site i = s.site i := fun i => s.setWaiting_site h w i
  have hhead : ∀ k, (s.setWaiting h w).head k = if k = h then { s.head k with waiting := w } else s.head k :=
    fun k => State.head_modHead s h k _
  have hclaim : ∀ k, ((s.setWaiting h w).head k).claim = (s.head k).claim := fun k => by rw [hhead]; split <;> rfl
  have hengine : ∀ k, ((s.setWaiting h w).head k).engine = (s.head k).engine := fun k => by rw [hhead]; split <;> rfl
  have hmap : (s.setWaiting h w).map = s.map := s.setWaiting_map h w
  have hown : ((s.setWaiting h w).head h).waiting = w := by rw [hhead, if_pos rfl]
  have hother : ((s.setWaiting h w).head (otherHead h)).waiting = (s.head (otherHead h)).waiting := by
    rw [hhead, if_neg (otherHead_ne h)]
  refine
    { heads := fun k => ?_
      held := fun i hi => by simpa only [hclaim] using hs.held i (hsites i ▸ hi)
      free := fun i hi => by rw [hsites] at hi ⊢; exact hs.free i hi
      oneWait := fun k hk => ?_
      apart := fun k c d hc hd => by
        rw [hclaim] at hc hd
        obtain ⟨hne, hconflict⟩ := hs.apart k c d hc hd
        exact ⟨hne, by unfold State.conflict at hconflict ⊢; rwa [hmap, hsites, hsites]⟩
      locks := fun i hi => by
        rw [State.locked, hmap] at hi
        rw [hsites]
        exact hs.locks i hi
      edit := fun he => ?_ }
  · refine
      { holds := fun c hc => by rw [hsites, hengine]; exact (hs.heads k).holds c (hclaim k ▸ hc)
        works := fun job hj => (hclaim k).trans ((hs.heads k).works job (hengine k ▸ hj))
        waits := fun hk => (hclaim k).trans ?_ }
    rcases head_eq_or_other h k with rfl | rfl
    · exact (hw (hown ▸ hk)).2.1
    · exact (hs.heads _).waits (hother ▸ hk)
  · rcases head_eq_or_other h k with rfl | rfl
    · rw [hother]
      exact (hw (hown ▸ hk)).2.2
    · rw [otherHead_otherHead, hown]
      rw [hother] at hk
      cases hw' : w with
      | none => rfl
      | some r => exact nomatch ((hw (by rw [hw']; rfl)).2.2 ▸ hk : (none : Option Wait).isSome = true)
  · rw [hmap] at he
    obtain ⟨hfree, hidle⟩ := hs.edit he
    refine ⟨fun i => hsites i ▸ hfree i, fun k => ⟨?_, (hengine k).trans (hidle k).2⟩⟩
    rcases head_eq_or_other h k with rfl | rfl
    · rw [hown]
      cases hw' : w with
      | none => rfl
      | some r =>
        have hactive := (hw (by rw [hw']; rfl)).1
        rw [he] at hactive
        cases hactive
    · exact hother.trans (hidle _).1

theorem setWaiting_none : Arbited (s.setWaiting h none) := hs.setWaiting none fun hx => nomatch hx

theorem grant {busy : Bool} {i : Nat} {k : Kind} (hp : Passed s h busy i k) (hc : (s.head h).claim = none)
    (hw : (s.head h).waiting = none) (hb : ∀ j, ¬ Blocks s h i j) : Arbited (s.grant h i k) := by
  have hsite : ∀ j, (s.grant h i k).site j =
      if j = i then { s.site i with state := .claimed, holder := some h, prior := some (priorOf k) } else s.site j :=
    fun j => by rw [State.grant, State.setClaim_site, State.setSite_site]
  have hhead : ∀ g, (s.grant h i k).head g =
      if g = h then { s.head g with claim := some { site := i, kind := k } } else s.head g := fun g => by
    rw [State.grant, State.setClaim, State.head_modHead, State.setSite_head]
  have hengine : ∀ g, ((s.grant h i k).head g).engine = (s.head g).engine := fun g => by rw [hhead]; split <;> rfl
  have hwaiting : ∀ g, ((s.grant h i k).head g).waiting = (s.head g).waiting := fun g => by rw [hhead]; split <;> rfl
  have hown : ((s.grant h i k).head h).claim = some { site := i, kind := k } := by rw [hhead, if_pos rfl]
  have hother : ((s.grant h i k).head (otherHead h)).claim = (s.head (otherHead h)).claim := by
    rw [hhead, if_neg (otherHead_ne h)]
  have hfree : siteHeld (s.site i) = false := by
    rw [siteHeld_eq_false, hp.state]
    cases k <;> exact ⟨fun h => (nomatch h), fun h => (nomatch h)⟩
  have hidle : (s.head h).engine = .idle := hs.engine_idle_of_no_claim hc
  have hlocked : ∀ j, (s.grant h i k).locked j = s.locked j := fun j => by rw [State.grant, State.setClaim_locked]; rfl
  have hmode : (s.grant h i k).map.mode = .active := by
    rw [State.grant, State.setClaim_map]
    exact hp.mode
  have hconflict : ∀ a b, (s.grant h i k).conflict a b = s.conflict a b := fun a b => by
    have hplace : ∀ j, ((s.grant h i k).site j).x = (s.site j).x ∧ ((s.grant h i k).site j).y = (s.site j).y := fun j => by
      rw [hsite]
      split
      · next hj => rw [hj]; exact ⟨rfl, rfl⟩
      · exact ⟨rfl, rfl⟩
    have hkeep : (s.grant h i k).map.keepOut = s.map.keepOut := by rw [State.grant, State.setClaim_map]; rfl
    unfold State.conflict
    rw [(hplace a).1, (hplace a).2, (hplace b).1, (hplace b).2, hkeep]
  have hdistinct : ∀ d, (s.head (otherHead h)).claim = some d → i ≠ d.site ∧ s.conflict i d.site = false := fun d hd => by
    refine ⟨fun heq => ?_, ?_⟩
    · have hheld := hs.claim_held hd
      rw [← heq, hfree] at hheld
      cases hheld
    · exact Bool.eq_false_iff.2 fun hx => hb d.site ((blocks_iff s h i _).2 ⟨d, hd, rfl, hx⟩)
  refine
    { heads := fun g => ?_, held := fun j hj => ?_, free := fun j hj => ?_
      oneWait := fun g hg => by rw [hwaiting] at hg ⊢; exact hs.oneWait g hg
      apart := fun g c d hcg hdg => ?_, locks := fun j hj => ?_
      edit := fun he => by
        rw [hmode] at he
        cases he }
  · rcases head_eq_or_other h g with rfl | rfl
    · refine
        { holds := fun c hcg => ?_
          works := fun job hj => by
            rw [hengine, hidle] at hj
            cases hj
          waits := fun hx => by
            rw [hwaiting, hw] at hx
            cases hx }
      cases hown.symm.trans hcg
      rw [hsite, if_pos rfl, hengine, hidle]
      exact ⟨hp.inTable, rfl, rfl, rfl⟩
    · refine
        { holds := fun c hcg => ?_
          works := fun job hj => hother.trans ((hs.heads _).works job (hengine _ ▸ hj))
          waits := fun hx => hother.trans ((hs.heads _).waits (hwaiting _ ▸ hx)) }
      rw [hother] at hcg
      rw [hsite, if_neg (hdistinct c hcg).1.symm, hengine]
      exact (hs.heads _).holds c hcg
  · by_cases hij : j = i
    · exact ⟨h, _, hown, hij.symm⟩
    · rw [hsite, if_neg hij] at hj
      obtain ⟨g, c, hcg, rfl⟩ := hs.held j hj
      rcases head_eq_or_other h g with rfl | rfl
      · exact nomatch hc.symm.trans hcg
      · exact ⟨_, c, hother.trans hcg, rfl⟩
  · by_cases hij : j = i
    · rw [hsite, if_pos hij] at hj
      exact absurd rfl (siteHeld_eq_false.1 hj).1
    · rw [hsite, if_neg hij] at hj ⊢
      exact hs.free j hj
  · rw [hconflict]
    rcases head_eq_or_other h g with rfl | rfl
    · cases hown.symm.trans hcg
      exact hdistinct d (hother.symm.trans hdg)
    · rw [otherHead_otherHead] at hdg
      cases hown.symm.trans hdg
      obtain ⟨hne, hno⟩ := hdistinct c (hother.symm.trans hcg)
      exact ⟨hne.symm, (s.conflict_comm _ _).trans hno⟩
  · rw [hlocked] at hj
    rw [hsite]
    split
    · next hij =>
      rw [hij, hp.unlocked] at hj
      cases hj
    · exact hs.locks j hj

end Arbited

end Sys2Proof.Machine
end

section
/-! PROOF. ARM, START, the locks, the editing of the map, HEAD_CLEAR and RESTART keep the laws of the Arbiter. -/

namespace Sys2Proof.Machine

namespace Arbited

variable {s : State} (hs : Arbited s) {h : Head}
include hs

/-! ## ARM and START (R79, R112) -/

/-- An IDLE engine begins the job of its head's claim. -/
theorem composing {c : Claim} (hc : (s.head h).claim = some c) {job : Job} (hsite : job.site = c.site)
    (hkind : job.kind = c.kind) (he : (s.head h).engine = .idle) : Arbited (s.setEngine h (.composing job)) := by
  have hhead : ∀ k, (s.setEngine h (.composing job)).head k =
      if k = h then { s.head k with engine := .composing job } else s.head k := fun k => State.head_modHead s h k _
  have hsites : ∀ i, (s.setEngine h (.composing job)).site i = s.site i := fun i => s.setEngine_site h _ i
  have hclaim : ∀ k, ((s.setEngine h (.composing job)).head k).claim = (s.head k).claim := fun k => by
    rw [hhead]; split <;> rfl
  have hwaiting : ∀ k, ((s.setEngine h (.composing job)).head k).waiting = (s.head k).waiting := fun k => by
    rw [hhead]; split <;> rfl
  have hruns : ∀ k, strokeRuns ((s.setEngine h (.composing job)).head k).engine = strokeRuns (s.head k).engine :=
    fun k => by
      rw [hhead]
      split
      · next hk => rw [hk, he]; rfl
      · rfl
  have hmap : (s.setEngine h (.composing job)).map = s.map := s.setEngine_map h _
  refine
    { heads := fun k =>
        { holds := fun d hd => by rw [hsites, hruns]; exact (hs.heads k).holds d (hclaim k ▸ hd)
          works := fun j hj => ?_
          waits := fun hw => (hclaim k).trans ((hs.heads k).waits (hwaiting k ▸ hw)) }
      held := fun i hi => by simpa only [hclaim] using hs.held i (hsites i ▸ hi)
      free := fun i hi => by rw [hsites] at hi ⊢; exact hs.free i hi
      oneWait := fun k hk => by rw [hwaiting] at hk ⊢; exact hs.oneWait k hk
      apart := fun k d e hd he' => by
        rw [hclaim] at hd he'
        obtain ⟨hne, hconflict⟩ := hs.apart k d e hd he'
        exact ⟨hne, by unfold State.conflict at hconflict ⊢; rwa [hmap, hsites, hsites]⟩
      locks := fun i hi => by
        rw [State.locked, hmap] at hi
        rw [hsites]
        exact hs.locks i hi
      edit := fun hm => by
        have hactive := hs.claim_active hc
        rw [hmap] at hm
        rw [hm] at hactive
        cases hactive }
  rw [hclaim]
  rw [hhead] at hj
  split at hj
  · next hk =>
    cases hj
    rw [hk, hc, hsite, hkind]
  · exact (hs.heads k).works j hj

/-- An armed engine begins its stroke on the site of its head's claim. -/
theorem startTaken {job : Job} {env : Envelope} (he : (s.head h).engine = .armed job env) :
    Arbited (s.startTaken h job env) := by
  have hc : (s.head h).claim = some { site := job.site, kind := job.kind } :=
    (hs.heads h).works job (by rw [he]; rfl)
  have hsite : ∀ j, (s.startTaken h job env).site j =
      if j = job.site then { s.site j with state := .pressing } else s.site j := fun j => by
    rw [State.startTaken, State.setSilence_site, State.setSiteState, State.setSite_site, State.setEngine_site,
      State.setEngine_site]
    split
    · next hj => rw [hj]
    · rfl
  obtain ⟨ctx, hhead⟩ : ∃ ctx, ∀ k, HeadAlike
      (if k = h then { s.head k with engine := .stroke .approach job env ctx } else s.head k)
      ((s.startTaken h job env).head k) :=
    ⟨startStroke (s.head h).tool.laneCount job.settings, fun k => by
      cases h <;> cases k <;> exact ⟨rfl, rfl, rfl, rfl⟩⟩
  have hclaim : ∀ k, ((s.startTaken h job env).head k).claim = (s.head k).claim := fun k => by
    rw [(hhead k).claim]; split <;> rfl
  have hwaiting : ∀ k, ((s.startTaken h job env).head k).waiting.isSome = (s.head k).waiting.isSome := fun k => by
    rw [(hhead k).waiting]; split <;> rfl
  have hjob : ∀ k, engineJob ((s.startTaken h job env).head k).engine = engineJob (s.head k).engine := fun k => by
    rw [(hhead k).job]
    split
    · next hk => rw [hk, he]; rfl
    · rfl
  have hmap : (s.startTaken h job env).map = { s.map with sites := (s.startTaken h job env).map.sites } := by
    cases h <;> rfl
  have hheld : ∀ j, siteHeld ((s.startTaken h job env).site j) = siteHeld (s.site j) := fun j => by
    rw [hsite]
    split
    · next hj => rw [siteHeld_pressing rfl, hj, hs.claim_held hc]
    · rfl
  have hactive : s.map.mode = .active := hs.claim_active hc
  refine
    { heads := fun k => ?_
      held := fun i hi => by simpa only [hclaim] using hs.held i (hheld i ▸ hi)
      free := fun i hi => ?_
      oneWait := fun k hk => ?_
      apart := fun k d e hd he' => ?_
      locks := fun i hi => ?_
      edit := fun hm => by
        rw [hmap] at hm
        cases hactive.symm.trans hm }
  · refine
      { holds := fun d hd => ?_
        works := fun j hj => (hclaim k).trans ((hs.heads k).works j (hjob k ▸ hj))
        waits := fun hw => (hclaim k).trans ((hs.heads k).waits (hwaiting k ▸ hw)) }
    rw [hclaim] at hd
    obtain ⟨hi, hholder, hprior, hstate⟩ := (hs.heads k).holds d hd
    rw [hsite, (hhead k).runs]
    rcases head_eq_or_other h k with rfl | rfl
    · cases hc.symm.trans hd
      rw [if_pos rfl, if_pos rfl]
      exact ⟨hi, hholder, hprior, rfl⟩
    · rw [if_neg (hs.apart h _ d hc hd).1.symm, if_neg (otherHead_ne h)]
      exact ⟨hi, hholder, hprior, hstate⟩
  · rw [hheld] at hi
    have hne : i ≠ job.site := fun hij => by
      rw [hij, hs.claim_held hc] at hi
      cases hi
    rw [hsite, if_neg hne]
    exact hs.free i hi
  · rw [hwaiting] at hk
    have hnone := hs.oneWait k hk
    have := hwaiting (otherHead k)
    rwa [hnone, Option.isSome_none, Option.isSome_eq_false_iff, Option.isNone_iff_eq_none] at this
  · rw [hclaim] at hd he'
    obtain ⟨hne, hconflict⟩ := hs.apart k d e hd he'
    have hplace : ∀ j, ((s.startTaken h job env).site j).x = (s.site j).x ∧
        ((s.startTaken h job env).site j).y = (s.site j).y := fun j => by
      rw [hsite]
      split <;> exact ⟨rfl, rfl⟩
    refine ⟨hne, ?_⟩
    unfold State.conflict at hconflict ⊢
    rwa [(hplace _).1, (hplace _).2, (hplace _).1, (hplace _).2, hmap]
  · rw [State.locked, hmap] at hi
    rw [hheld]
    exact hs.locks i hi

/-! ## The map (R5 to R19) -/

/-- A map with other lock flags, none of them of a held site. -/
theorem setLocks (i n : Nat) (b : Bool)
    (hb : b = true → ∀ j, j < n → siteHeld (s.site (i + j)) = false) : Arbited (s.setLocks i n b) := by
  have hhead : ∀ k, (s.setLocks i n b).head k = s.head k := fun k => by cases k <;> rfl
  refine
    { heads := fun k => ?_
      held := fun j hj => by simpa only [hhead] using hs.held j hj
      free := hs.free
      oneWait := fun k hk => by rw [hhead] at hk ⊢; exact hs.oneWait k hk
      apart := fun k c d hc hd => by rw [hhead] at hc hd; exact hs.apart k c d hc hd
      locks := fun j hj => ?_
      edit := fun hm => ⟨(hs.edit hm).1, fun k => by rw [hhead]; exact (hs.edit hm).2 k⟩ }
  · exact
      { holds := fun c hc => by rw [hhead] at hc ⊢; exact (hs.heads k).holds c hc
        works := fun job hj => by rw [hhead] at hj ⊢; exact (hs.heads k).works job hj
        waits := fun hw => by rw [hhead] at hw ⊢; exact (hs.heads k).waits hw }
  · rw [State.locked, State.setLocks, Table.get_update] at hj
    split at hj
    · next hin =>
      have := hb hj (j - i) (by omega)
      rwa [show i + (j - i) = j by omega] at this
    · exact hs.locks j hj

/-- A site that is not held and stays so. -/
theorem setSiteState_free {i : Nat} {st : SiteState} (hi : siteHeld (s.site i) = false)
    (hst : st ≠ .claimed ∧ st ≠ .pressing) : Arbited (s.setSiteState i st) := by
  have hhead : ∀ k, (s.setSiteState i st).head k = s.head k := fun k => by cases k <;> rfl
  have hsite : ∀ j, (s.setSiteState i st).site j = if j = i then { s.site i with state := st } else s.site j :=
    fun j => State.setSite_site s i j _
  have hclaimed : ∀ k c, (s.head k).claim = some c → c.site ≠ i := fun k c hc hci => by
    rw [← hci, hs.claim_held hc] at hi
    cases hi
  have hheld : ∀ j, siteHeld ((s.setSiteState i st).site j) = siteHeld (s.site j) := fun j => by
    rw [hsite]
    split
    · next hj => rw [hj, hi]; exact siteHeld_eq_false.2 hst
    · rfl
  refine
    { heads := fun k => ?_
      held := fun j hj => by simpa only [hhead] using hs.held j (hheld j ▸ hj)
      free := fun j hj => ?_
      oneWait := fun k hk => by rw [hhead] at hk ⊢; exact hs.oneWait k hk
      apart := fun k c d hc hd => ?_
      locks := fun j hj => (hheld j).trans (hs.locks j hj)
      edit := fun hm => ?_ }
  · refine
      { holds := fun c hc => ?_
        works := fun job hj => by rw [hhead] at hj ⊢; exact (hs.heads k).works job hj
        waits := fun hw => by rw [hhead] at hw ⊢; exact (hs.heads k).waits hw }
    rw [hhead] at hc ⊢
    rw [hsite, if_neg (hclaimed k c hc)]
    exact (hs.heads k).holds c hc
  · rw [hheld] at hj
    rw [hsite]
    split
    · next hij => exact hs.free i hi
    · exact hs.free j hj
  · rw [hhead] at hc hd
    obtain ⟨hne, hconflict⟩ := hs.apart k c d hc hd
    refine ⟨hne, ?_⟩
    unfold State.conflict at hconflict ⊢
    rw [hsite, if_neg (hclaimed _ c hc), hsite, if_neg (hclaimed _ d hd)]
    exact hconflict
  · obtain ⟨hfree, hidle⟩ := hs.edit hm
    exact ⟨fun j => (hheld j).trans (hfree j), fun k => by rw [hhead]; exact hidle k⟩

end Arbited

/-- An edit of a quiet map whose sites stay free. -/
theorem Quiet.edited {s t : State} {m : BoardMap} (hs : Quiet s) (ht : Edited s m t)
    (hm : ∀ i, Table.get Site.undefined m.sites i = s.site i ∨
      siteHeld (Table.get Site.undefined m.sites i) = false ∧ (Table.get Site.undefined m.sites i).holder = none ∧
        (Table.get Site.undefined m.sites i).prior = none) : Quiet t := by
  obtain ⟨⟨tr, hframe⟩, -⟩ := ht
  have hsites : ∀ x : Site, ∀ i, (x = s.site i ∨ siteHeld x = false ∧ x.holder = none ∧ x.prior = none) →
      siteHeld x = false ∧ x.holder = none ∧ x.prior = none := fun x i hx => by
    rcases hx with rfl | hx
    · exact hs.sites i
    · exact hx
  rw [hframe]
  refine ⟨fun i => hsites _ i (hm i), fun h => ?_⟩
  · cases h
    · exact hs.heads .a
    · exact hs.heads .b

theorem Quiet.setSite {s t : State} (hs : Quiet s) {i : Nat} {x : Site} (ht : Edited s (s.setSite i x).map t)
    (hx : siteHeld x = false ∧ x.holder = none ∧ x.prior = none) : Quiet t := by
  refine hs.edited ht fun j => ?_
  have hsite : Table.get Site.undefined (s.setSite i x).map.sites j = if j = i then x else s.site j :=
    State.setSite_site s i j x
  rw [hsite]
  split
  · exact .inr hx
  · exact .inl rfl

/-- A quiet part stays quiet under a map with the same sites. -/
theorem Quiet.setMap {s : State} (hs : Quiet s) {m : BoardMap} (hm : m.sites = s.map.sites) : Quiet { s with map := m } := by
  refine ⟨fun i => ?_, fun h => ?_⟩
  · have hsite : ({ s with map := m } : State).site i = s.site i := by
      rw [State.site]
      exact congrArg (Table.get Site.undefined · i) hm
    rw [hsite]
    exact hs.sites i
  · cases h
    · exact hs.heads .a
    · exact hs.heads .b

theorem Arbited.quiet_of_not_inUse {s : State} (hs : Arbited s) (h : s.mapInUse = false) : Quiet s := by
  have hno : ¬ s.mapInUse = true := by simp [h]
  rw [State.mapInUse, Bool.or_eq_true, Bool.or_eq_true, Bool.or_eq_true] at hno
  obtain ⟨hheld, hwaits⟩ : ¬ s.anyHeld = true ∧ ¬ (s.headA.waiting.isSome = true ∨ s.headB.waiting.isSome = true) := by
    tauto
  refine hs.quiet fun k => ⟨?_, ?_⟩
  · cases hc : (s.head k).claim with
    | none => rfl
    | some c =>
      refine absurd ?_ hheld
      rw [State.anyHeld, List.any_eq_true]
      exact ⟨c.site, List.mem_range.2 ((hs.heads k).holds c hc).1, hs.claim_held hc⟩
  · have hnone : ∀ w : Option Wait, ¬ w.isSome = true → w = none := fun w hw => by simpa using hw
    cases k
    · exact hnone _ fun hA => hwaits (.inl hA)
    · exact hnone _ fun hB => hwaits (.inr hB)

/-! ## HEAD_CLEAR and RESTART (R135, R182) -/

theorem Arbited.clearEngine {s : State} (hs : Arbited s) (h : Head) : Arbited (s.clearEngine h) := by
  unfold State.clearEngine
  split
  · next he => exact hs.releaseClaim_idle he
  · next he =>
    obtain ⟨fate, hsettles, hfit⟩ := Arbited.releaseClaim_settles (s := s) (h := h) (by rw [he]; rfl)
    exact (hsettles.idled.2 _).endsIdle.1.arbited hs hfit
  · next he =>
    obtain ⟨fate, hsettles, hfit⟩ := Arbited.releaseClaim_settles (s := s) (h := h) (by rw [he]; rfl)
    exact hsettles.idled.1.endsIdle.1.arbited hs hfit
  · next ph job env ctx he =>
    split
    · have hverdict := (Alike.refl s).verdictEvent h job env ctx .aborted false
      refine (hs.alike hverdict).endStroke ?_ _ _ _
      rw [(hverdict.heads h).job, he]
      rfl
    · exact hs.endStroke (by rw [he]; rfl) _ _ _

/-- An end by HEAD_CLEAR or RESTART always names the state a site is released in (R131). -/
theorem siteAfter_cleared (k : Kind) (o : StrokeOutcome) (contact : Bool) (back : SiteState) :
    (siteAfter k o contact true back).isSome = true := by
  unfold siteAfter
  cases o
  case aborted => dsimp only; split <;> rfl
  case linkLost => dsimp only; split <;> rfl
  case sensorFault => dsimp only; split <;> rfl
  all_goals rfl

theorem restartSite_not_held (u : HeadUnit) (x : Site) : restartSite u x ≠ .claimed ∧ restartSite u x ≠ .pressing := by
  have hended : ∀ k o contact, (siteAfter k o contact true (returnState x)).getD .claimed ≠ .claimed ∧
      (siteAfter k o contact true (returnState x)).getD .claimed ≠ .pressing := fun k o contact => by
    obtain ⟨st, hst⟩ := Option.isSome_iff_exists.1 (siteAfter_cleared k o contact (returnState x))
    rw [hst]
    exact siteAfter_not_held (returnState_not_held x) hst
  unfold restartSite
  split
  · exact returnState_not_held x
  · exact returnState_not_held x
  · exact returnState_not_held x
  · split <;> exact hended _ _ _

/-- A head's work ends at RESTART with its site released, its claim and its wait gone. -/
theorem Arbited.restartHead {s : State} (hs : Arbited s) (h : Head) : Arbited (s.restartHead h) := by
  have hverdict : Alike s (s.restartVerdict h) := by
    unfold State.restartVerdict
    split
    · split
      · exact (Alike.refl s).verdictEvent h _ _ _ _ _
      · exact .refl s
    all_goals exact .refl s
  have hu := hs.alike hverdict
  unfold State.restartHead
  generalize s.restartVerdict h = u at hu
  unfold State.restartClaim
  split
  · next c hc =>
    have hretired : Retired u h (.released c.site (restartSite (u.head h) (u.site c.site)))
        ((((u.resolveSite c.site (restartSite (u.head h) (u.site c.site))).setClaim h none).setWaiting h none).toIdle
          h) := by
      refine ⟨by cases h <;> rfl, fun i => ?_, by cases h <;> rfl, by cases h <;> rfl, ?_, ?_⟩
      · rw [State.toIdle_site, State.setWaiting_site, State.setClaim_site, State.resolveSite, State.setSite_site,
          SiteFate.site]
        split
        · next hi => rw [hi]
        · rfl
      · cases h <;> exact fun hw => nomatch hw
      · cases h <;> exact .refl _
    exact hretired.arbited hu ⟨⟨c, hc, rfl⟩, restartSite_not_held _ _⟩
  · next hc =>
    have hidle := hu.engine_idle_of_no_claim hc
    have hretired : Retired u h .untouched ((u.setWaiting h none).toIdle h) := by
      refine ⟨by cases h <;> rfl, fun i => by rw [State.toIdle_site, State.setWaiting_site]; rfl, by cases h <;> rfl,
        by cases h <;> rfl, ?_, ?_⟩
      · cases h <;> exact fun hw => nomatch hw
      · cases h <;> exact .refl _
    exact hretired.arbited hu (by rw [Fits, hidle]; rfl)

theorem State.restartSettings_alike (s : State) (h : Head) : Alike s (s.restartSettings h) := by
  unfold State.restartSettings
  split
  · exact .refl s
  · exact (Alike.refl s).modHead h _ ⟨rfl, rfl, rfl, rfl⟩

theorem Arbited.restarted {s : State} (hs : Arbited s) : Arbited s.restarted := by
  have hheads := (hs.restartHead .a).restartHead .b
  have hsettings := (State.restartSettings_alike ((s.restartHead .a).restartHead .b) .a).trans
    (State.restartSettings_alike _ .b)
  have hports := (((hsettings.assertStop .a).assertStop .b).modPort .cell (restartPort none)).modPort .headA
    (restartPort (s.portA.reception.map lapse))
  exact hheads.alike (hports.modPort .headB (restartPort (s.portB.reception.map lapse))).trySwap

/-! ## Every command -/

theorem kindCoded_some (k : Kind) : ∃ n, kindCoded n (some k) := by
  cases k
  · exact ⟨0, .inl ⟨rfl, rfl⟩⟩
  · exact ⟨1, .inr (.inl ⟨rfl, rfl⟩)⟩

/-- A head that is blocked waits behind a claim of the other head, which does not wait. -/
theorem Arbited.not_waiting_of_blocks {s : State} (hs : Arbited s) {h : Head} {i j : Nat} (hb : Blocks s h i j) :
    (s.head (otherHead h)).waiting = none := by
  obtain ⟨⟨c, hc, -⟩, -⟩ := hb
  cases hw : (s.head (otherHead h)).waiting with
  | none => rfl
  | some w => exact nomatch hc.symm.trans ((hs.heads _).waits (by rw [hw]; rfl))

theorem Arbited.claim {s : State} (hs : Arbited s) (site kind wait : Byte) (h : Head) :
    Arbited (claimBody site kind wait h s).1 := by
  rcases s.judgeClaim_cases h ((s.head h).claim.isSome || (s.head h).waiting.isSome) site.toNat (kindOf kind)
      (flagOf wait) ⟨_, kindOf_coded kind⟩ ⟨_, flagOf_coded wait⟩ with
    ⟨st, hj⟩ | ⟨k, hk, hp, ⟨j, hb, hj⟩ | ⟨hb, hj⟩⟩
  · simp only [claimBody, hj]
    exact hs
  all_goals
    obtain ⟨hc, hw⟩ := Bool.or_eq_false_iff.1 hp.free
    rw [Option.isSome_eq_false_iff, Option.isNone_iff_eq_none] at hc hw
    simp only [claimBody, hj]
  · split
    · exact hs.setWaiting _ fun _ => ⟨hp.mode, hc, hs.not_waiting_of_blocks hb⟩
    · exact hs
  · exact hs.grant hp hc hw hb

theorem Passed.setWaiting {s : State} {h : Head} {busy : Bool} {i : Nat} {k : Kind} (hp : Passed s h busy i k)
    (w : Option Wait) : Passed (s.setWaiting h w) h busy i k := by
  cases h <;> exact ⟨hp.mode, hp.running, hp.free, hp.inTable, hp.unlocked, hp.notTaken, hp.state⟩

theorem blocks_setWaiting {s : State} {h : Head} {w : Option Wait} {i j : Nat} :
    Blocks (s.setWaiting h w) h i j ↔ Blocks s h i j := by cases h <;> exact Iff.rfl

theorem State.setWaiting_claim (s : State) (h : Head) (w : Option Wait) :
    ((s.setWaiting h w).head h).claim = (s.head h).claim := by cases h <;> rfl

theorem Arbited.reevaluate {s : State} (hs : Arbited s) (h : Head) (w : Wait) : Arbited (s.reevaluate h w) := by
  have hunwaited := hs.setWaiting_none (h := h)
  rcases s.judgeClaim_cases h (s.head h).claim.isSome w.site (some w.kind) (some true) (kindCoded_some w.kind)
      ⟨1, .inr (.inl ⟨rfl, rfl⟩)⟩ with ⟨st, hj⟩ | ⟨k, hk, hp, ⟨j, hb, hj⟩ | ⟨hb, hj⟩⟩
  · simp only [State.reevaluate, hj]
    exact hunwaited.alike ((Alike.refl _).postHead h _)
  all_goals
    have hc : (s.head h).claim = none := by
      have := hp.free
      rwa [Option.isSome_eq_false_iff, Option.isNone_iff_eq_none] at this
    simp only [State.reevaluate, hj]
  · exact hs.setWaiting _ fun _ => ⟨hp.mode, hc, hs.not_waiting_of_blocks hb⟩
  · have hgranted := hunwaited.grant (hp.setWaiting none) ((s.setWaiting_claim h none).trans hc) (by cases h <;> rfl)
      fun j hj => hb j (blocks_setWaiting.1 hj)
    exact hgranted.alike ((Alike.refl _).postHead h _)

end Sys2Proof.Machine
end

section
/-! PROOF. Every command keeps the laws of the Arbiter. -/

namespace Sys2Proof.Machine

theorem tickHead_alike (u : HeadUnit) : HeadAlike u (tickHead u) := by
  refine ⟨rfl, rfl, ?_, ?_⟩
  all_goals
    dsimp only [tickHead]
    cases u.engine with
    | stroke ph => cases ph <;> rfl
    | _ => rfl

theorem Arbited.retractFrame {s : State} (hs : Arbited s) {h : Head} {job : Job} (hw : Working s h job) (env : Envelope)
    (ctx : Stroke) (f : Sample) : Arbited (s.retractFrame h job env ctx f) := by
  unfold State.retractFrame
  split
  · exact hs.alike ((Alike.refl s).lateFault hw env _ _)
  · split
    · exact hs.alike ((Alike.refl s).lateFault hw env _ _)
    · split
      · exact hs.endStroke hw.1 _ _ _
      · exact hs.alike ((Alike.refl s).setStroke hw _ _ _)

theorem Arbited.deliver {s : State} (hs : Arbited s) (h : Head) (f : Sample) : Arbited (s.deliver h f) := by
  unfold State.deliver
  split
  case h_4 ph job env ctx he =>
    have hw := working_of_stroke he
    split
    case h_5 => exact hs.retractFrame hw _ _ f
    case h_6 => exact hs
    all_goals exact hs.alike ((Alike.refl s).liveFrame hw _ _ _ f _)
  all_goals exact hs

theorem keeps_arbited : Keeps Arbited where
  port s p f _ hs := hs.alike ((Alike.refl s).modPort p f)
  rest s q hs := hs.alike ((Alike.refl s).beside rfl fun h => by cases h <;> rfl)
  tick s hs := hs.alike ⟨rfl, fun h => by cases h <;> exact tickHead_alike _⟩
  hardReset s _ := by
    refine Quiet.arbited ⟨fun i => ⟨rfl, rfl, rfl⟩, fun h => ?_⟩
    cases h <;> exact ⟨rfl, rfl, rfl⟩
  restart s hs := hs.restarted
  setBlock size s hs := by
    unfold setBlockBody
    split
    · exact hs.alike ((Alike.refl s).beside rfl fun h => by cases h <;> rfl)
    · exact hs
  fetchNotice p s hs := by
    unfold fetchNoticeBody
    split
    all_goals
      dsimp only
      exact hs.alike ((Alike.refl s).modPort p _)
  mapEdit s hs := by
    unfold mapEditBody
    split
    · exact hs
    · split
      · exact hs
      · next huse =>
        refine ((hs.quiet_of_not_inUse (by simpa using huse)).setMap ?_).arbited
        rfl
  mapActivate s hs := by
    unfold mapActivateBody
    split
    · exact hs
    · next hmode =>
      split
      · exact hs
      · split
        · exact hs
        · have hedit : s.map.mode = .edit := by cases h : s.map.mode <;> simp_all
          refine ((hs.quiet_of_edit hedit).setMap ?_).arbited
          rfl
  writeSite site f s hs := by
    rcases writeSiteBody_cases site f s with h | ⟨hmode, -, h⟩
    · rwa [h]
    · exact ((hs.quiet_of_edit hmode).setSite h ⟨rfl, rfl, rfl⟩).arbited
  clearSite site s hs := by
    rcases clearSiteBody_cases site s with h | ⟨hmode, h⟩
    · rwa [h]
    · exact ((hs.quiet_of_edit hmode).setSite h ⟨rfl, rfl, rfl⟩).arbited
  writePins first count entries s hs _ := by
    rcases writePinsBody_cases first count entries s with h | ⟨hmode, -, h⟩
    · rwa [h]
    · refine ((hs.quiet_of_edit hmode).edited h fun i => .inl ?_).arbited
      rw [(State.writePins_map entries s first.toNat).2]
      rfl
  setKeepout distance s hs := by
    unfold setKeepoutBody
    split
    · exact hs
    · next hmode =>
      have hedit : s.map.mode = .edit := by cases h : s.map.mode <;> simp_all
      split
      all_goals
        refine ((hs.quiet_of_edit hedit).setMap ?_).arbited
        rfl
  lockSites first count s hs := by
    obtain ⟨i, m, h, hfree⟩ := lockSitesBody_setLocks first count s
    rw [h]
    exact hs.setLocks i m true fun _ => hfree
  unlockSites first count s hs := by
    obtain ⟨i, m, h⟩ := unlockSitesBody_setLocks first count s
    rw [h]
    exact hs.setLocks i m false fun hx => nomatch hx
  disposeSite site s hs := by
    unfold disposeSiteBody
    split
    · exact hs
    · split
      · next hstate =>
        refine hs.setSiteState_free ?_ ⟨fun h => (nomatch h), fun h => (nomatch h)⟩
        rw [siteHeld_eq_false]
        rcases hstate with h | h <;> rw [h] <;> exact ⟨fun h => (nomatch h), fun h => (nomatch h)⟩
      · exact hs
  writeProfile pinType holeClass count seatForce points s hs _ := by
    unfold writeProfileBody
    split
    · exact hs
    · split
      · exact hs
      · split
        · exact hs
        · exact hs.alike ((Alike.refl s).beside rfl fun h => by cases h <;> rfl)
  clearProfile pinType holeClass s hs := by
    unfold clearProfileBody
    split
    · exact hs
    · split
      · exact hs
      · exact hs.alike ((Alike.refl s).beside rfl fun h => by cases h <;> rfl)
  copyBank s hs := by
    unfold copyBankBody
    split
    · exact hs
    · exact hs.alike ((Alike.refl s).beside rfl fun h => by cases h <;> rfl)
  swapBanks s hs := by
    show Arbited (swapBanksState s)
    unfold swapBanksState
    split
    · exact hs
    · have hask : Alike s s.askSwap := (Alike.refl s).beside rfl fun h => by cases h <;> rfl
      exact hs.alike hask.trySwap
  setTool head laneCount toolCode lanes s hs _ := by
    unfold setToolBody
    split
    · exact hs
    · next h _ =>
      split
      · exact hs
      · split
        · exact hs
        · dsimp only
          exact hs.alike ((Alike.refl s).modHead h _ ⟨rfl, rfl, rfl, rfl⟩)
  setHead head setting value s hs := by
    unfold setHeadBody
    split
    · split
      · exact hs.alike (Alike.storeHead s _ _ _)
      · exact hs
    all_goals exact hs
  keepSettings value s hs := by
    unfold keepSettingsBody
    split
    · exact hs.alike ((Alike.refl s).beside rfl fun h => by cases h <;> rfl)
    · exact hs
  setLine head line value s hs := by
    unfold setLineBody
    split
    · exact hs
    · next h _ =>
      split
      · unfold setPermit
        split
        · exact hs
        · split
          · exact hs
          · split
            · exact hs
            · dsimp only
              exact hs.alike ((Alike.refl s).modLines h _)
      · split
        · unfold setMark
          split
          · exact hs
          · dsimp only
            exact hs.alike ((Alike.refl s).modLines h _)
        · exact hs
  claim site kind wait h s hs := hs.claim site kind wait h
  release h s hs := by
    unfold releaseBody
    split
    · exact hs
    · next c hc =>
      split
      · next he => exact hs.releaseSite hc he _
      · exact hs
      · exact hs.releaseArmed hc _
      · exact hs
  cancelWait h s hs := by
    unfold cancelWaitBody
    split
    · exact hs.setWaiting_none
    · exact hs
  arm h s hs := by
    unfold armBody
    split
    · exact hs
    · next c hc =>
      split
      · exact hs
      · next he =>
        split
        · exact hs
        · split
          · exact hs
          · exact hs.composing hc rfl rfl ((engineIdle_iff _).1 (by simpa using he))
  start h s hs := by
    unfold startBody
    split
    · next he =>
      split
      · exact hs
      · split
        · exact hs
        · split
          · exact hs
          · exact hs.startTaken he
    all_goals exact hs
  abort h s hs := by
    unfold abortBody
    split
    · exact hs
    · next he => exact hs.failComposition (by rw [he]; rfl) _ _
    · next he => exact hs.toIdle_trySwap (by rw [he]; rfl)
    · next he =>
      split
      · exact hs.alike ((Alike.refl s).conclude (working_of_stroke he) _ _ .aborted)
      · exact hs
  resume h s hs := by
    unfold resumeBody
    split
    · next he =>
      split
      · exact hs
      · exact hs.alike ((Alike.refl s).returnFromHeld (working_of_stroke he) _ _ _)
    all_goals exact hs
  headClear h s hs := (hs.clearEngine h).setWaiting_none.alike ((Alike.refl _).modLines h fun l => { l with stop := false })
  armWatch slot site lane s hs := by
    unfold armWatchBody
    split
    · exact hs
    · split
      · exact hs
      · split
        · exact hs
        · exact hs.alike ((Alike.refl s).setSlot _ _)
  disarmWatch slot s hs := by
    unfold disarmWatchBody
    split
    · exact hs
    · split
      · exact hs
      · exact hs.alike ((Alike.refl s).setSlot _ _)
  frame h f s hs := by
    have hlink := (Alike.refl s).modHead h (fun u => { u with link := acceptedLink u f }) ⟨rfl, rfl, rfl, rfl⟩
    exact (hs.alike hlink).deliver h f
  idle h s hs := hs.alike ((Alike.refl s).modHead h _ ⟨rfl, rfl, rfl, rfl⟩)
  silence h s t hs ht := by
    have hstopped := hs.alike ((Alike.refl s).setSilence h none)
    unfold execSilenceTimerExpiry at ht
    split at ht
    · split at ht
      · next he =>
        have hw := working_of_stroke he
        split at ht <;> cases ht
        · exact hs.alike ((Alike.refl s).faultStroke hw _ _ _ _)
        · exact hs.alike ((Alike.refl s).lateFault hw _ _ _)
        · exact hstopped
      all_goals cases ht; exact hstopped
    · cases ht
      exact hs
  dwell h s t hs ht := by
    unfold execDwellTimerExpiry at ht
    split at ht
    · next he =>
      split at ht <;> cases ht
      · exact hs.alike ((Alike.refl s).conclude (working_of_stroke he) _ _ _)
      · exact hs
    all_goals cases ht; exact hs
  pulse h s hs := hs.alike ((Alike.refl s).modLines h _)
  completion h s hs := by
    unfold State.completeComposition
    split
    · next he =>
      split
      · exact hs.failComposition (by rw [he]; rfl) _ _
      · exact hs.alike (((Alike.refl s).setEngine h (.armed _ _) (by rw [he]; rfl) (by rw [he]; rfl)).postHead h _)
    all_goals exact hs
  reevaluation h s w hs _ := hs.reevaluate h w
  interlock h level s hs :=
    hs.alike (((Alike.refl s).modLines h fun l => { l with interlockHigh := level }).trans (Alike.interlockMoved _ h _))

/-- Settles O56: what a head's work, its claim and its wait say of each other stands after every event that makes, grants or
gives up a claim, and every other event changes nothing that the laws read. -/
theorem arbiterLawKept : Obligations.ArbiterLawKept := fun s t hs ht =>
  (arbited_iff_arbiterLaw t).1 (keeps_arbited.step s t ((arbited_iff_arbiterLaw s).2 hs) ht)

end Sys2Proof.Machine
end

section
/-! PROOF. What concerns one head changes nothing of the other but the due mark of its wait and the queue of its port. -/

namespace Sys2Proof.Machine

theorem headPort_otherHead_ne (h : Head) : headPort (otherHead h) ≠ headPort h := by
  cases h <;> exact fun hx => nomatch hx

/-- A head whose waiting claim has been marked due (R49). -/
def dueMarked (u : HeadUnit) : HeadUnit := { u with waiting := u.waiting.map (fun w => { w with due := true }) }

theorem dueMarked_dueMarked (u : HeadUnit) : dueMarked (dueMarked u) = dueMarked u := by
  unfold dueMarked
  cases u.waiting <;> rfl

/-- Of the head that `h` is not, nothing has changed but the due mark of its wait, and of its port nothing but the queue. -/
structure Apart (h : Head) (s t : State) : Prop where
  head : t.head (otherHead h) = s.head (otherHead h) ∨ t.head (otherHead h) = dueMarked (s.head (otherHead h))
  port : ∃ q, t.port (headPort (otherHead h)) = { s.port (headPort (otherHead h)) with queue := q }

namespace Apart

theorem refl (h : Head) (s : State) : Apart h s s := ⟨.inl rfl, _, rfl⟩

theorem trans {h : Head} {s t u : State} (ht : Apart h s t) (hu : Apart h t u) : Apart h s u := by
  obtain ⟨hhead, q, hq⟩ := ht
  obtain ⟨hhead', q', hq'⟩ := hu
  refine ⟨?_, q', by rw [hq', hq]⟩
  rcases hhead with hhead | hhead <;> rcases hhead' with hhead' | hhead' <;> rw [hhead', hhead]
  · exact .inl rfl
  · exact .inr rfl
  · exact .inr rfl
  · exact .inr (dueMarked_dueMarked _)

section
variable {h : Head} {s t : State} (ht : Apart h s t)
include ht

theorem beside {u : State} (hhead : u.head (otherHead h) = t.head (otherHead h))
    (hport : u.port (headPort (otherHead h)) = t.port (headPort (otherHead h))) : Apart h s u :=
  ht.trans ⟨.inl hhead, _, hport⟩

theorem modHead (f : HeadUnit → HeadUnit) : Apart h s (t.modHead h f) :=
  ht.beside (t.modHead_head_other h f) (t.modHead_port h f _)

theorem setEngine (e : Engine) : Apart h s (t.setEngine h e) := ht.modHead _

theorem setClaim (c : Option Claim) : Apart h s (t.setClaim h c) := ht.modHead _

theorem setWaiting (w : Option Wait) : Apart h s (t.setWaiting h w) := ht.modHead _

theorem modLines (f : Lines → Lines) : Apart h s (t.modLines h f) := ht.modHead _

theorem assertStop : Apart h s (t.assertStop h) := ht.modLines _

theorem setSilence (n : Option Nat) : Apart h s (t.setSilence h n) := ht.modHead _

theorem toIdle : Apart h s (t.toIdle h) := (ht.setEngine .idle).setSilence none

theorem markDue : Apart h s (t.markDue (otherHead h)) :=
  ht.trans ⟨.inr (by cases h <;> rfl), _, t.markDue_port _ _⟩

theorem modPort {p : Port} (hp : p ≠ headPort (otherHead h)) (f : PortUnit → PortUnit) : Apart h s (t.modPort p f) :=
  ht.beside (t.modPort_head p f _) (by rw [State.port_modPort, if_neg hp.symm])

theorem setSite (i : Nat) (x : Site) : Apart h s (t.setSite i x) := ht.beside (by cases h <;> rfl) (by cases h <;> rfl)

theorem releaseSite (i : Nat) (st : SiteState) : Apart h s (t.releaseSite h i st) :=
  ((ht.setSite i _).setClaim none).markDue

theorem queued {u : State} (hhead : u.head (otherHead h) = t.head (otherHead h))
    (hport : ∃ q, u.port (headPort (otherHead h)) = { t.port (headPort (otherHead h)) with queue := q }) :
    Apart h s u := ht.trans ⟨.inl hhead, hport⟩

theorem postHead (n : Notice) : Apart h s (t.postHead h n) :=
  ht.beside (t.postHead_head h n _) (t.postHead_port_other h n)

/-- A swap that follows posts its notice to all three queues (R70, R71). -/
theorem trySwap : Apart h s t.trySwap := by
  unfold State.trySwap
  split
  · refine ht.queued (by cases h <;> rfl)
      ⟨arrive (t.port (headPort (otherHead h))).queue (swapDone (t.library.generation + 1)), ?_⟩
    cases h <;> rfl
  · exact ht

theorem verdictEvent (job : Job) (env : Envelope) (ctx : Stroke) (o : StrokeOutcome) (isFault : Bool) :
    Apart h s (t.verdictEvent h job env ctx o isFault) := by
  refine ht.queued ?_ ?_
  · rw [State.verdictEvent_frame]
    cases h <;> rfl
  · rw [State.verdictEvent_port]
    cases h <;> exact ⟨_, rfl⟩

theorem conclude (job : Job) (env : Envelope) (ctx : Stroke) (o : StrokeOutcome) :
    Apart h s (t.conclude h job env ctx o) := (ht.verdictEvent job env ctx o false).setEngine _

theorem faultStroke (job : Job) (env : Envelope) (ctx : Stroke) (o : StrokeOutcome) (b : Breach) :
    Apart h s (t.faultStroke h job env ctx o b) :=
  (((ht.verdictEvent job env (faultContext ctx o b) o true).assertStop).setEngine _).setSilence none

theorem lateFault (job : Job) (env : Envelope) (ctx : Stroke) (o : StrokeOutcome) :
    Apart h s (t.lateFault h job env ctx o) := ((ht.assertStop.setEngine _).setSilence none).postHead _

theorem settleSite (job : Job) (st : Option SiteState) : Apart h s (t.settleSite h job st) := by
  cases st with
  | some x => exact ht.releaseSite job.site x
  | none => exact ht.setSite _ _

theorem endStroke (job : Job) (ctx : Stroke) (o : StrokeOutcome) (cleared : Bool) :
    Apart h s (t.endStroke h job ctx o cleared) := ((ht.settleSite job _).toIdle.postHead _).trySwap

theorem failComposition (job : Job) (f : CompositionFailure) : Apart h s (t.failComposition h job f).trySwap :=
  (ht.toIdle.postHead _).trySwap

theorem told {u : State} (hu : Told t h u) : Apart h s u := by
  obtain ⟨⟨pulse, hframe⟩, -, -⟩ := hu
  rw [hframe]
  have hslots : Apart h s { t with slot0 := u.slot0, slot1 := u.slot1 } :=
    ht.beside (by cases h <;> rfl) (by cases h <;> rfl)
  exact hslots.modLines _

theorem turns {P : Prop} {held : Bool} {job : Job} {env : Envelope} {u : State} (hu : Turns P t h held job env u) :
    Apart h s u := by
  cases hu with
  | faults ctx o b => exact ht.faultStroke job env ctx o b
  | concludes ctx o => exact ht.conclude job env ctx o
  | stays l ctx => exact ht.setEngine _

theorem liveFrame (held : Bool) (job : Job) (env : Envelope) (ctx : Stroke) (f : Sample) (l : Live) :
    Apart h s (t.liveFrame h held l job env ctx f) := by
  obtain ⟨u, htold, hturns⟩ := t.liveFrame_turns h held job env ctx f l
  exact (ht.told htold).turns hturns

theorem hold (l : Live) (job : Job) (env : Envelope) (ctx : Stroke) : Apart h s (t.hold h l job env ctx) :=
  (ht.setEngine _).postHead _

theorem returnFromHeld (l : Live) (job : Job) (env : Envelope) (ctx : Stroke) :
    Apart h s (t.returnFromHeld h l job env ctx) := (ht.setEngine _).postHead _

theorem interlockAbort (job : Job) (env : Envelope) (ctx : Stroke) : Apart h s (t.interlockAbort h job env ctx) :=
  (ht.postHead _).conclude job env ctx .aborted

theorem interlockOn : Apart h s (t.interlockOn h) := by
  unfold State.interlockOn
  split
  · split
    · exact ht.interlockAbort _ _ _
    · exact ht.hold _ _ _ _
    · exact ht.hold _ _ _ _
    all_goals exact ht
  all_goals exact ht

theorem interlockOff : Apart h s (t.interlockOff h) := by
  unfold State.interlockOff
  split
  · exact ht.returnFromHeld _ _ _ _
  · exact ht

theorem interlockMoved (before : Bool) : Apart h s (t.interlockMoved h before) := by
  unfold State.interlockMoved
  split
  · exact ht
  · split
    · exact ht.interlockOn
    · exact ht.interlockOff

theorem actionChanged : Apart h s (t.actionChanged h) := by
  unfold State.actionChanged
  split
  · split
    · exact ht.returnFromHeld _ _ _ _
    · exact ht.interlockAbort _ _ _
    all_goals exact ht
  all_goals exact ht

theorem storeHead (g : Setting) (v : Nat) : Apart h s (t.storeHead h g v) := by
  have hstored := ht.modHead fun u => { u with settings := storeSetting u.settings g v }
  unfold State.storeHead
  cases g with
  | interlockPolarity => exact hstored.interlockMoved _
  | interlockAction =>
    dsimp only
    split
    · exact hstored
    · exact hstored.actionChanged
  | _ => exact hstored

theorem releaseClaim : Apart h s (t.releaseClaim h) := by
  unfold State.releaseClaim
  split
  · exact ht.releaseSite _ _
  · exact ht

end

/-- A change of the head's own port, or of the Cell Port. -/
theorem of_portOnly {h : Head} {p : Port} {s t : State} (hp : p ≠ headPort (otherHead h)) (ht : PortOnly p s t) :
    Apart h s t := by
  obtain ⟨f, -, rfl⟩ := ht
  exact (refl h s).modPort hp f

theorem handled {h : Head} {i : Instr} {p : Port} {s t : State} (hp : p ≠ headPort (otherHead h))
    (ht : Handled i p s t) (he : codeListed p (requestCode i) = true → ∀ u, Apart h u (requestEffect i u)) :
    Apart h s t := by
  rcases ht with ht | ⟨hc, u, hu, ht⟩
  · exact of_portOnly hp ht
  · exact ((of_portOnly hp hu).trans (he hc u)).trans (of_portOnly hp ht)

end Apart

/-! ## The requests of a head -/

section
variable (h : Head) (s : State)

theorem apart_headClear : Apart h s (headClearBody h s).1 := by
  have hcleared : Apart h s (s.clearEngine h) := by
    unfold State.clearEngine
    split
    · exact (Apart.refl h s).releaseClaim
    · exact (Apart.refl h s).releaseClaim.failComposition _ _
    · exact (Apart.refl h s).releaseClaim.toIdle.trySwap
    · split
      · exact ((Apart.refl h s).verdictEvent _ _ _ _ _).endStroke _ _ _ _
      · exact (Apart.refl h s).endStroke _ _ _ _
  exact (hcleared.setWaiting none).modLines fun l => { l with stop := false }

theorem apart_abort : Apart h s (abortBody h s).1 := by
  unfold abortBody
  split
  · exact .refl h s
  · exact (Apart.refl h s).failComposition _ _
  · exact (Apart.refl h s).toIdle.trySwap
  · split
    · exact (Apart.refl h s).conclude _ _ _ .aborted
    · exact .refl h s

theorem apart_resume : Apart h s (resumeBody h s).1 := by
  unfold resumeBody
  split
  · split
    · exact .refl h s
    · exact (Apart.refl h s).returnFromHeld _ _ _ _
  all_goals exact .refl h s

theorem apart_claim (site kind wait : Byte) : Apart h s (claimBody site kind wait h s).1 := by
  unfold claimBody
  split
  · exact .refl h s
  · exact ((Apart.refl h s).setSite _ _).setClaim _
  · split
    · exact (Apart.refl h s).setWaiting _
    · exact .refl h s

theorem apart_release : Apart h s (releaseBody h s).1 := by
  unfold releaseBody
  split
  · exact .refl h s
  · split
    · exact (Apart.refl h s).releaseSite _ _
    · exact .refl h s
    · exact ((Apart.refl h s).toIdle.releaseSite _ _).trySwap
    · exact .refl h s

theorem apart_cancelWait : Apart h s (cancelWaitBody h s).1 := by
  unfold cancelWaitBody
  split
  · exact (Apart.refl h s).setWaiting none
  · exact .refl h s

theorem apart_arm : Apart h s (armBody h s).1 := by
  unfold armBody
  split
  · exact .refl h s
  · repeat' split
    all_goals first
      | exact .refl h s
      | exact (Apart.refl h s).setEngine _

theorem apart_start : Apart h s (startBody h s).1 := by
  unfold startBody
  split
  · repeat' split
    all_goals first
      | exact .refl h s
      | exact (((Apart.refl h s).setEngine _).setSite _ _).setSilence _
  all_goals exact .refl h s

end

/-- On a Head Port a request that names its head by the port concerns that head. -/
theorem apart_onHead {h : Head} {s : State} (body : Head → State → Answer) (hb : Apart h s (body h s).1) :
    Apart h s (onHead (headPort h) body s).1 := by cases h <;> exact hb

theorem apart_onNamedHead_port {h : Head} {s : State} (field : Option Byte) (body : Head → State → Answer)
    (hb : Apart h s (body h s).1) : Apart h s (onNamedHead (headPort h) field body s).1 := by cases h <;> exact hb

theorem apart_onNamedHead_cell {h : Head} {s : State} (body : Head → State → Answer) (hb : Apart h s (body h s).1) :
    Apart h s (onNamedHead .cell (some (headByte h)) body s).1 := by cases h <;> exact hb

/-- A Head Port takes no code that is not on its list (R177). -/
theorem headCodes_of_listed {h : Head} {code : Byte} (hc : codeListed (headPort h) code = true) : code ∈ headCodes := by
  cases h <;> exact List.contains_iff_mem.1 hc

theorem apart_requestEffect {h : Head} {i : Instr} (hp : requestPort i = some (headPort h))
    (hc : codeListed (headPort h) (requestCode i) = true) (s : State) : Apart h s (requestEffect i s) := by
  have hcode := headCodes_of_listed hc
  cases i
  case fetchNotice p =>
    cases hp
    show Apart h s (fetchNoticeBody (headPort h) s).1
    unfold fetchNoticeBody
    split
    all_goals
      dsimp only
      exact (Apart.refl h s).modPort (headPort_otherHead_ne h).symm _
  case identify p => exact .refl h s
  case headStatus p b => exact .refl h s
  case readRecord p a => exact .refl h s
  case claim p a b c => cases hp; exact apart_onHead _ (apart_claim h s a b c)
  case release p => cases hp; exact apart_onHead _ (apart_release h s)
  case cancelWait p => cases hp; exact apart_onHead _ (apart_cancelWait h s)
  case arm p => cases hp; exact apart_onHead _ (apart_arm h s)
  case start p => cases hp; exact apart_onHead _ (apart_start h s)
  case abort p b => cases hp; exact apart_onNamedHead_port b _ (apart_abort h s)
  case resume p b => cases hp; exact apart_onNamedHead_port b _ (apart_resume h s)
  case headClear p b => cases hp; exact apart_onNamedHead_port b _ (apart_headClear h s)
  all_goals first
    | cases hp; done
    | simp [requestCode, headCodes] at hcode

/-! ## Every command that concerns one head -/

theorem apart_exec_request {h : Head} {i : Instr} {s t : State} (hp : requestPort i = some (headPort h))
    (ht : exec i s = .next t) : Apart h s t :=
  .handled (headPort_otherHead_ne h).symm (exec_handled hp ht) fun hc u => apart_requestEffect hp hc u

theorem apart_exec_cell {h : Head} {i : Instr} {s t : State} (hp : requestPort i = some .cell)
    (ht : exec i s = .next t) (he : ∀ u, Apart h u (requestEffect i u)) : Apart h s t :=
  .handled (by cases h <;> exact fun hx => nomatch hx) (exec_handled hp ht) fun _ => he

theorem apart_transact {h : Head} {ended : Bool} {bytes : List Byte} {s t : State}
    (ht : transact (headPort h) ended bytes s = .next t) : Apart h s t := by
  have hp := (headPort_otherHead_ne h).symm
  rcases transact_handled ht with ht | ⟨i, hi, ht⟩
  · exact .of_portOnly hp ht
  · exact (Apart.of_portOnly hp (portOnly_endReception _ s)).trans
      (.handled hp ht fun hc u => apart_requestEffect hi hc u)

theorem apart_retractFrame (h : Head) (s : State) (job : Job) (env : Envelope) (ctx : Stroke) (f : Sample) :
    Apart h s (s.retractFrame h job env ctx f) := by
  unfold State.retractFrame
  split
  · exact (Apart.refl h s).lateFault job env _ _
  · split
    · exact (Apart.refl h s).lateFault job env _ _
    · split
      · exact (Apart.refl h s).endStroke job _ _ _
      · exact (Apart.refl h s).setEngine _

theorem apart_deliver (h : Head) (s : State) (f : Sample) : Apart h s (s.deliver h f) := by
  unfold State.deliver
  split
  case h_4 =>
    split
    case h_5 => exact apart_retractFrame h s _ _ _ f
    case h_6 => exact .refl h s
    all_goals exact (Apart.refl h s).liveFrame _ _ _ _ f _
  all_goals exact .refl h s

theorem apart_sampleFrame {h : Head} {bytes : List Byte} {s t : State} (ht : exec (.sampleFrame h bytes) s = .next t) :
    Apart h s t := by
  simp only [exec, execSampleFrame] at ht
  split at ht
  · cases ht
    exact (Apart.refl h s).modHead _
  · split at ht
    · split at ht <;> cases ht
      · exact .refl h s
      · exact ((Apart.refl h s).modHead _).trans (apart_deliver h _ _)
    · cases ht
      exact .refl h s

theorem apart_silenceTimerExpiry {h : Head} {s t : State} (ht : exec (.silenceTimerExpiry h) s = .next t) :
    Apart h s t := by
  have hstopped := (Apart.refl h s).setSilence none
  simp only [exec, execSilenceTimerExpiry] at ht
  split at ht
  · split at ht
    · split at ht <;> cases ht
      · exact (Apart.refl h s).faultStroke _ _ _ _ _
      · exact (Apart.refl h s).lateFault _ _ _ _
      · exact hstopped
    all_goals cases ht; exact hstopped
  · cases ht
    exact .refl h s

theorem apart_dwellTimerExpiry {h : Head} {s t : State} (ht : exec (.dwellTimerExpiry h) s = .next t) :
    Apart h s t := by
  simp only [exec, execDwellTimerExpiry] at ht
  split at ht
  · split at ht <;> cases ht
    · exact (Apart.refl h s).conclude _ _ _ _
    · exact .refl h s
  all_goals cases ht; exact .refl h s

theorem apart_completeComposition (h : Head) (s : State) : Apart h s (s.completeComposition h) := by
  unfold State.completeComposition
  split
  · split
    · exact (Apart.refl h s).failComposition _ _
    · exact ((Apart.refl h s).setEngine _).postHead _
  all_goals exact .refl h s

theorem apart_reevaluation {h : Head} {s t : State} (ht : exec (.reevaluation h) s = .next t) : Apart h s t := by
  simp only [exec, execReevaluation] at ht
  split at ht
  · split at ht <;> cases ht
    · unfold State.reevaluate
      have hunwaited := (Apart.refl h s).setWaiting none
      split
      · exact ((hunwaited.setSite _ _).setClaim _).postHead _
      · exact hunwaited.postHead _
      · exact (Apart.refl h s).setWaiting _
    · exact .refl h s
  · cases ht
    exact .refl h s

theorem apart_setTool (h : Head) (s : State) (laneCount toolCode : Byte) (lanes : List LaneEntry) :
    Apart h s (setToolBody (headByte h) laneCount toolCode lanes s).1 := by
  simp only [setToolBody, headOf_headByte]
  repeat' split
  all_goals first
    | exact .refl h s
    | (dsimp only; exact (Apart.refl h s).modHead _)

theorem apart_setHead (h : Head) (s : State) (setting : Byte) (value : Word) :
    Apart h s (setHeadBody (headByte h) setting value s).1 := by
  unfold setHeadBody
  rw [headOf_headByte]
  split
  · next hhead _ =>
    obtain rfl := Option.some.inj hhead
    split
    · exact (Apart.refl h s).storeHead _ _
    · exact .refl h s
  all_goals exact .refl h s

theorem apart_setLine (h : Head) (s : State) (line value : Byte) :
    Apart h s (setLineBody (headByte h) line value s).1 := by
  simp only [setLineBody, headOf_headByte, setPermit, setMark]
  repeat' split
  all_goals first
    | exact .refl h s
    | (dsimp only; exact (Apart.refl h s).modLines _)

theorem Concerns.apart {c : Instr} {h : Head} {s t : State} (hc : Concerns h c) (ht : exec c s = .next t) :
    Apart h s t := by
  cases hc with
  | request i hp => exact apart_exec_request hp ht
  | frame i bytes hi =>
    rcases hi with rfl | rfl | rfl | rfl
    · exact apart_transact ht
    · exact apart_transact ht
    · exact apart_transact ht
    · cases ht
      exact .of_portOnly (headPort_otherHead_ne h).symm
        ((portOnly_beginTransaction _ s).trans (portOnly_readReply _ _))
  | link bytes => exact apart_sampleFrame ht
  | event i hi =>
    rcases hi with rfl | rfl | rfl | rfl | rfl
    · exact apart_silenceTimerExpiry ht
    · exact apart_dwellTimerExpiry ht
    · simp only [exec, execMarkPulseEnd] at ht
      split at ht <;> cases ht
      · exact (Apart.refl h s).modLines _
      · exact .refl h s
    · cases ht
      exact apart_completeComposition h s
    · exact apart_reevaluation ht
  | interlock level =>
    cases ht
    exact ((Apart.refl h s).modLines _).interlockMoved _
  | named i hi =>
    rcases hi with rfl | rfl | rfl | rfl
    · exact apart_exec_cell rfl ht fun u => apart_onNamedHead_cell _ (apart_abort h u)
    · exact apart_exec_cell rfl ht fun u => apart_onNamedHead_cell _ (apart_resume h u)
    · exact apart_exec_cell rfl ht fun u => apart_onNamedHead_cell _ (apart_headClear h u)
    · exact apart_exec_cell rfl ht fun u => .refl h u
  | tool laneCount toolCode lanes => exact apart_exec_cell rfl ht fun u => apart_setTool h u _ _ _
  | setting setting value => exact apart_exec_cell rfl ht fun u => apart_setHead h u _ _
  | line line value => exact apart_exec_cell rfl ht fun u => apart_setLine h u _ _

/-- Settles O58: each shared operation of one head leaves the other, but for the release of a site, which marks the other's wait
due, and a swap, whose notice goes to every queue. -/
theorem headsIsolated : Obligations.HeadsIsolated := fun c h s t hc ht => by
  obtain ⟨hhead, q, hq⟩ := hc.apart ht
  exact ⟨hhead, by rw [hq]⟩

end Sys2Proof.Machine
end

section
/-! PROOF. HARD_RESET (R20, R26, R34, R74, R97, R140, R155, R168, R174). -/

namespace Sys2Proof.Machine

/-- The laws hold of a part at its reset values, but for what a link and a pin hold. -/
theorem laws_of_reset {s : State} (hframe : s = { State.reset with
    pending := s.pending, headA := s.headA, headB := s.headB })
    (hheads : ∀ h, UnitSame HeadUnit.reset (s.head h) ∧ (s.head h).claim = none ∧ (s.head h).waiting = none ∧
      (s.head h).engine = .idle) : PartLaw s ∧ ArbiterLaw s ∧ WorkLaw s := by
  have hquiet : Quiet s := by
    refine ⟨fun i => ?_, fun h => (hheads h).2⟩
    rw [hframe]
    exact ⟨rfl, rfl, rfl⟩
  refine ⟨(sound_iff_partLaw s).1 (sound_of_reset hframe fun h => (hheads h).1),
    (arbited_iff_arbiterLaw s).1 hquiet.arbited, workLaw_of_heads (fun h => ?_) fun i => ?_⟩
  · rw [(hheads h).2.2.2]
    trivial
  · rw [hframe]
    exact recordLaw_emptyForm

/-- Settles O59: the state after HARD_RESET is written out by its meaning, and the laws hold of it as of the state after
reset. -/
theorem hardResetValues : Obligations.HardResetValues := by
  have hunit : ∀ u : HeadUnit, u.tool = HeadUnit.reset.tool → u.settings = HeadUnit.reset.settings →
      u.lines.override = HeadUnit.reset.lines.override → u.lines.stop = HeadUnit.reset.lines.stop →
      u.claim = none → u.waiting = none → u.engine = .idle →
      UnitSame HeadUnit.reset u ∧ u.claim = none ∧ u.waiting = none ∧ u.engine = .idle :=
    fun u htool hsettings ho hstop hc hw he => ⟨⟨ho, hstop, congrArg Settings.judged hsettings, htool⟩, hc, hw, he⟩
  refine ⟨fun s => ⟨_, rfl, rfl, rfl, rfl, rfl, fun _ => rfl, fun _ => rfl, fun _ => rfl, fun b _ => ?_, rfl, rfl, rfl,
    rfl, fun h => ?_, fun _ => rfl, fun _ => rfl, rfl, rfl, rfl, fun p => ?_, laws_of_reset rfl fun h => ?_⟩,
    laws_of_reset rfl fun h => ?_⟩
  · cases b <;> rfl
  · cases h <;> rfl
  · cases p <;> rfl
  · cases h <;> exact hunit _ rfl rfl rfl rfl rfl rfl rfl
  · cases h <;> exact hunit _ rfl rfl rfl rfl rfl rfl rfl

end Sys2Proof.Machine
end

section
/-! PROOF. The reception of sample frames: which are taken, and what each engine state makes of one (R96 to R100). -/

namespace Sys2Proof.Machine

/-! ## The fields of a sound frame (R98, 12.5) -/

theorem parseRaws_length : ∀ bytes : List Byte, (parseRaws bytes).length = bytes.length / 2
  | [] => rfl
  | [_] => by simp [parseRaws]
  | _ :: _ :: rest => by
    simp only [parseRaws, List.length_cons, parseRaws_length rest]
    omega

theorem getElem?_of_getLastD {α : Type} {l : List α} {n : Nat} {d : α} (hl : l.length = n + 1) :
    l[n]? = some (l.getLastD d) := by
  have hlast : l.getLast? = l[n]? := by rw [List.getLast?_eq_getElem?, hl, Nat.add_sub_cancel]
  have hn : n < l.length := by omega
  rw [List.getLastD_eq_getLast?, hlast, List.getElem?_eq_getElem hn, Option.getD_some]

/-- What a frame that passes framing and CRC holds. -/
theorem decodeSample_some {bytes : List Byte} {f : Sample} (hf : decodeSample bytes = some f) :
    bytes.length = 11 + 2 * f.laneCount ∧ bytes.head? = some 0xB6 ∧ f.laneCount ≤ 16 ∧ f.raws.length = f.laneCount ∧
      bytes[1]? = some f.sequence ∧ bytes[5]? = some (BitVec.ofNat 8 f.laneCount) ∧
      bytes[10 + 2 * f.laneCount]? = some (crc ((bytes.drop 1).take (9 + 2 * f.laneCount))) := by
  unfold decodeSample at hf
  split at hf
  · next sync seq status s0 s1 n d0 d1 d2 d3 rest =>
    split at hf
    · cases hf
    · next hframe =>
      split at hf
      · cases hf
      · next hcrc =>
        obtain rfl := Option.some.inj hf
        simp only [not_or, not_not, not_lt] at hframe hcrc
        obtain ⟨rfl, hn, hlen⟩ := hframe
        have hrest : rest.length = 2 * n.toNat + 1 := by simp only [List.length_cons] at hlen; omega
        refine ⟨hlen, rfl, hn, ?_, rfl, ?_, ?_⟩
        · simp only [parseRaws_length, List.length_take, hrest]
          omega
        · simp
        · simp only [List.tail_cons] at hcrc
          rw [List.drop_succ_cons, List.drop_zero, hcrc, Nat.add_comm]
          exact getElem?_of_getLastD hrest
  · cases hf

/-- A frame whose last byte is not its CRC is discarded. -/
theorem decodeSample_none_of_crc {bytes : List Byte} {n : Byte} (hn : bytes[5]? = some n)
    (hcrc : bytes[10 + 2 * n.toNat]? ≠ some (crc ((bytes.drop 1).take (9 + 2 * n.toNat)))) :
    decodeSample bytes = none := by
  cases hf : decodeSample bytes with
  | none => rfl
  | some f =>
    obtain ⟨-, -, hcount, -, -, hlanes, hlast⟩ := decodeSample_some hf
    have hnat : n.toNat = f.laneCount := by
      rw [hn] at hlanes
      rw [Option.some.inj hlanes, BitVec.toNat_ofNat]
      omega
    exact absurd (hnat ▸ hlast) hcrc

/-! ## Reception (R97, R99) -/

theorem exec_sampleFrame (h : Head) (bytes : List Byte) (s : State) :
    exec (.sampleFrame h bytes) s = execSampleFrame h bytes s := by rfl

theorem duplicate_eq_true {l : Link} {f : Sample} :
    duplicate l f = true ↔ ∃ g, l.lastFrame = some g ∧ g.sequence = f.sequence := by
  unfold duplicate
  cases l.lastFrame <;> simp

theorem exec_sampleFrame_cut {h : Head} {s : State} (bytes : List Byte) (hw : (s.head h).link.awaitIdle = true) :
    exec (.sampleFrame h bytes) s = .next (s.linkIdle h) := by
  rw [exec_sampleFrame, execSampleFrame, if_pos hw]

theorem exec_sampleFrame_malformed {h : Head} {bytes : List Byte} {s : State}
    (hw : (s.head h).link.awaitIdle = false) (hf : decodeSample bytes = none) :
    exec (.sampleFrame h bytes) s = .next s := by
  rw [exec_sampleFrame, execSampleFrame, if_neg (by simp [hw]), hf]

theorem exec_sampleFrame_duplicate {h : Head} {bytes : List Byte} {s : State} {f : Sample}
    (hw : (s.head h).link.awaitIdle = false) (hf : decodeSample bytes = some f)
    (hd : duplicate (s.head h).link f = true) : exec (.sampleFrame h bytes) s = .next s := by
  rw [exec_sampleFrame, execSampleFrame, if_neg (by simp [hw]), hf]
  simp only [hd, if_true]

/-- An accepted frame is received, and delivered to the engine. -/
theorem exec_sampleFrame_accepted {h : Head} {bytes : List Byte} {s : State} {f : Sample} (ha : accepts s h bytes f) :
    exec (.sampleFrame h bytes) s = .next ((received s h f).deliver h f) := by
  obtain ⟨hw, hf, hseq⟩ := ha
  have hd : ¬ duplicate (s.head h).link f = true := fun h => by
    obtain ⟨g, hg, hs⟩ := duplicate_eq_true.1 h
    exact hseq g hg hs
  rw [exec_sampleFrame, execSampleFrame, if_neg (by simp [hw]), hf]
  simp only [if_neg hd]
  rfl

section
variable (s : State) (h : Head) (f : Sample)

@[simp] theorem received_engine : ((received s h f).head h).engine = (s.head h).engine := by cases h <;> rfl

@[simp] theorem received_tool : ((received s h f).head h).tool = (s.head h).tool := by cases h <;> rfl

@[simp] theorem received_site (i : Nat) : (received s h f).site i = s.site i := by cases h <;> rfl

@[simp] theorem received_slot0 : (received s h f).slot0 = s.slot0 := by cases h <;> rfl

@[simp] theorem received_slot1 : (received s h f).slot1 = s.slot1 := by cases h <;> rfl

@[simp] theorem received_forces (ctx : Stroke) : (received s h f).forces h ctx f = s.forces h ctx f := by
  cases h <;> rfl

@[simp] theorem received_retractLimits (job : Job) (ctx : Stroke) :
    (received s h f).retractLimits h job ctx f = s.retractLimits h job ctx f := by
  unfold State.retractLimits
  simp

end

/-! ## Delivery by the engine's state (R100) -/

/-- An engine with no stroke, and a FAULTED one, make nothing of a frame. -/
theorem State.deliver_unheeded {u : State} {h : Head} {f : Sample}
    (he : engineState (u.head h).engine = .idle ∨ engineState (u.head h).engine = .composing ∨
      engineState (u.head h).engine = .armed ∨ engineState (u.head h).engine = .faulted) : u.deliver h f = u := by
  unfold State.deliver
  split
  · rfl
  · rfl
  · rfl
  · next ph job env ctx hstroke =>
    rw [hstroke] at he
    cases ph <;> simp [engineState, phaseState] at he ⊢

theorem State.deliver_live {u : State} {h : Head} {held : Bool} {l : Live} {job : Job} {env : Envelope} {ctx : Stroke}
    (f : Sample) (he : (u.head h).engine = .stroke (phaseOf held l) job env ctx) :
    u.deliver h f = u.liveFrame h held l job env ctx f := by
  unfold State.deliver
  rw [he]
  cases held <;> cases l <;> rfl

theorem State.deliver_retract {u : State} {h : Head} {job : Job} {env : Envelope} {ctx : Stroke} (f : Sample)
    (he : (u.head h).engine = .stroke .retract job env ctx) : u.deliver h f = u.retractFrame h job env ctx f := by
  unfold State.deliver
  rw [he]

/-- A frame that is accepted in a stroke that is judged. -/
theorem exec_sampleFrame_live {h : Head} {bytes : List Byte} {s : State} {f : Sample} {held : Bool} {l : Live}
    {job : Job} {env : Envelope} {ctx : Stroke} (ha : accepts s h bytes f)
    (he : (s.head h).engine = .stroke (phaseOf held l) job env ctx) :
    exec (.sampleFrame h bytes) s = .next ((received s h f).liveFrame h held l job env ctx f) := by
  rw [exec_sampleFrame_accepted ha, State.deliver_live f (by rwa [received_engine])]

/-- A frame that is accepted in RETRACT. -/
theorem exec_sampleFrame_retract {h : Head} {bytes : List Byte} {s : State} {f : Sample} {job : Job} {env : Envelope}
    {ctx : Stroke} (ha : accepts s h bytes f) (he : (s.head h).engine = .stroke .retract job env ctx) :
    exec (.sampleFrame h bytes) s = .next ((received s h f).retractFrame h job env ctx f) := by
  rw [exec_sampleFrame_accepted ha, State.deliver_retract f (by rwa [received_engine])]

/-- Settles O40, from what a sound frame holds and from what each engine state makes of an accepted one. -/
theorem frameReception : Obligations.FrameReception := by
  unfold Obligations.FrameReception
  intro s h bytes
  refine ⟨exec_sampleFrame_cut bytes, fun hw => ⟨exec_sampleFrame_malformed hw, ?_, ?_⟩, ?_, fun f => decodeSample_some⟩
  · intro n hn hcrc
    exact exec_sampleFrame_malformed hw (decodeSample_none_of_crc hn hcrc)
  · intro f g hf hg hseq
    exact exec_sampleFrame_duplicate hw hf (duplicate_eq_true.2 ⟨g, hg, hseq⟩)
  · intro f ha he
    rw [exec_sampleFrame_accepted ha, State.deliver_unheeded (by rwa [received_engine])]
    rfl

end Sys2Proof.Machine
end

section
/-! PROOF. Measured force and the hard limits of a frame (R101, R106, R108, R116). -/

namespace Sys2Proof.Machine

/-! ## Measured force (R106, R108) -/

theorem tareZero_eq (sum : Int) : tareZero sum = (sum + 4) / 8 := rfl

/-- The tare zero is the mean of eight values, rounded to the nearest integer, a half going up. -/
theorem tareZero_rounds (sum : Int) :
    (tareZero sum : ℚ) - 1 / 2 ≤ (sum : ℚ) / 8 ∧ (sum : ℚ) / 8 < (tareZero sum : ℚ) + 1 / 2 := by
  have hlow : 8 * tareZero sum ≤ sum + 4 := by rw [tareZero_eq]; omega
  have hhigh : sum + 4 < 8 * tareZero sum + 8 := by rw [tareZero_eq]; omega
  have hlow' : (8 : ℚ) * tareZero sum ≤ sum + 4 := by exact_mod_cast hlow
  have hhigh' : (sum : ℚ) + 4 < 8 * tareZero sum + 8 := by exact_mod_cast hhigh
  constructor <;> linarith

theorem measured_of_le {zero raw : Int} (gain : Nat) (h : raw ≤ zero) : measured gain zero raw = 0 := by
  have hz : (raw - zero).toNat = 0 := by omega
  rw [measured, hz, Nat.zero_mul, Nat.zero_div]

theorem measured_eq_floor {zero raw : Int} (gain : Nat) (h : zero < raw) :
    (measured gain zero raw : Int) = ⌊(((raw - zero) * gain : Int) : ℚ) / 256⌋ := by
  have hz : ((raw - zero).toNat : Int) = raw - zero := Int.toNat_of_nonneg (by omega)
  have hfloor := Rat.floor_intCast_div_natCast ((raw - zero) * gain) 256
  rw [show ((256 : ℕ) : ℚ) = 256 from rfl] at hfloor
  rw [hfloor, measured, Int.natCast_div, Int.natCast_mul, hz]

theorem measureLanes_get : ∀ (lanes : List LaneSetup) (zeros raws : List Int) (k : Nat) (l : LaneSetup) (z r : Int),
    lanes[k]? = some l → zeros[k]? = some z → raws[k]? = some r →
    (measureLanes lanes zeros raws)[k]? = some (measured l.gain z r)
  | [], _, _, _, _, _, _, hl, _, _ => by simp at hl
  | _ :: _, [], _, _, _, _, _, _, hz, _ => by simp at hz
  | _ :: _, _ :: _, [], _, _, _, _, _, _, hr => by simp at hr
  | _ :: _, _ :: _, _ :: _, 0, _, _, _, hl, hz, hr => by
    obtain rfl := Option.some.inj hl
    obtain rfl := Option.some.inj hz
    obtain rfl := Option.some.inj hr
    rfl
  | _ :: ls, _ :: zs, _ :: rs, k + 1, l, z, r, hl, hz, hr => measureLanes_get ls zs rs k l z r hl hz hr

/-! ## The hard limits (R101, R102, R116) -/

theorem sensorFault_iff {tool : Tool} {f : Sample} : sensorFault tool f = true ↔ faultyFrame tool f := by
  simp [sensorFault]

/-- The breach of the saturation flags, from the list of the lanes they name. -/
theorem saturationBreach_eq (tool : Tool) (f : Sample) :
    saturationBreach tool f =
      if saturatedLanes tool f ≠ [] then
        some { offending := List.range tool.laneCount, faultLane := (saturatedLanes tool f).head? }
      else none := by
  unfold saturationBreach
  split
  · next h => simp [h]
  · next h => simp [h]

theorem saturationBreach_eq_none {tool : Tool} {f : Sample} :
    saturationBreach tool f = none ↔ ∀ k, k < tool.laneCount → f.saturation.getLsbD k = false := by
  rw [saturationBreach_eq]
  simp [saturatedLanes, List.filter_eq_nil_iff]

/-- The lowest saturated lane is the fault lane. -/
theorem saturationBreach_lowest {tool : Tool} {f : Sample} {k : Nat} (hk : k < tool.laneCount)
    (hs : f.saturation.getLsbD k = true) (hlow : ∀ m, m < k → f.saturation.getLsbD m = false) :
    saturationBreach tool f = some { offending := List.range tool.laneCount, faultLane := some k } := by
  have hhead : (saturatedLanes tool f).head? = some k := by
    rw [saturatedLanes, List.head?_filter, List.find?_range_eq_some]
    simpa [hs, hk] using hlow
  have hne : saturatedLanes tool f ≠ [] := fun h => by simp [h] at hhead
  rw [saturationBreach_eq, if_pos hne, hhead]

/-- Whether a lane's measured force is above its ceiling. -/
def laneOver (ls : List LaneSetup) (fs : List Nat) (k : Nat) : Bool :=
  decide (((ls[k]?).map LaneSetup.ceiling).getD 0 < (fs[k]?).getD 0)

theorem lanesOver_eq : ∀ (n : Nat) (ls : List LaneSetup) (fs : List Nat), ls.length = fs.length →
    lanesOver n ls fs = ((List.range ls.length).filter (laneOver ls fs)).map (n + ·)
  | _, [], [], _ => rfl
  | n, l :: ls, f :: fs, hlen => by
    have ih := lanesOver_eq (n + 1) ls fs (Nat.succ.inj hlen)
    have hrest : ((List.range ls.length).map Nat.succ).filter (laneOver (l :: ls) (f :: fs)) =
        ((List.range ls.length).filter (laneOver ls fs)).map Nat.succ := by
      rw [List.filter_map]
      rfl
    have hshift : (lanesOver (n + 1) ls fs) =
        (((List.range ls.length).filter (laneOver ls fs)).map Nat.succ).map (n + ·) := by
      rw [ih, List.map_map]
      refine List.map_congr_left (fun k _ => ?_)
      simp only [Function.comp]
      omega
    rw [lanesOver, List.length_cons, List.range_succ_eq_map, List.filter_cons, hrest, hshift]
    by_cases hover : l.ceiling < f
    · rw [if_pos hover, if_pos (by simpa [laneOver] using hover)]
      rfl
    · rw [if_neg hover, if_neg (by simpa [laneOver] using hover)]

theorem hardLimits_eq {tool : Tool} {forces : List Nat} (settings : Snapshot) (f : Sample)
    (htool : tool.lanes.length = tool.laneCount) (hforces : forces.length = tool.laneCount) :
    hardLimits tool settings f forces =
      if saturatedLanes tool f ≠ [] then
        some { offending := List.range tool.laneCount, faultLane := (saturatedLanes tool f).head? }
      else if settings.headCeiling < forces.sum then
        some { offending := List.range tool.laneCount,
               faultLane := ((List.range tool.laneCount).filter (laneOver tool.lanes forces)).head? }
      else if (List.range tool.laneCount).filter (laneOver tool.lanes forces) ≠ [] then
        some { offending := (List.range tool.laneCount).filter (laneOver tool.lanes forces),
               faultLane := ((List.range tool.laneCount).filter (laneOver tool.lanes forces)).head? }
      else none := by
  have hover : lanesOver 0 tool.lanes forces = (List.range tool.laneCount).filter (laneOver tool.lanes forces) := by
    rw [lanesOver_eq 0 _ _ (htool.trans hforces.symm), htool]
    simp
  unfold hardLimits
  rw [hover, saturationBreach_eq]
  split
  · next b hb =>
    split at hb
    · next hs => rw [if_pos hs, hb]
    · cases hb
  · next hb =>
    split at hb
    · cases hb
    · next hs =>
      rw [if_neg hs]
      generalize (List.range tool.laneCount).filter (laneOver tool.lanes forces) = above
      cases above <;> simp

/-- Settles O41, from the rounding of the tare zero, the floor of a measured force and the order of the hard limits. -/
theorem measuringAndLimits : Obligations.MeasuringAndLimits := by
  unfold Obligations.MeasuringAndLimits
  refine ⟨tareZero_rounds, fun gain zero raw => ⟨measured_of_le gain, measured_eq_floor gain⟩, measureLanes_get, ?_⟩
  intro tool settings f forces sat above htool hforces hsat habove
  have hs : sat = saturatedLanes tool f := hsat
  have ha : above = (List.range tool.laneCount).filter (laneOver tool.lanes forces) := habove
  rw [hs, ha]
  exact hardLimits_eq settings f htool hforces

end Sys2Proof.Machine
end

section
/-! PROOF. Tare frames, measured frames and faults: what an accepted frame makes of a stroke that is judged (R101, R113 to
R116, R122 to R126, R132). -/

namespace Sys2Proof.Machine

/-! ## What a frame adds to a stroke's context (R106, R113, R122) -/

theorem addSums_eq : ∀ ss rs : List Int, ss.length = rs.length → addSums ss rs = List.zipWith (fun x y => x + y) ss rs
  | [], [], _ => rfl
  | s :: ss, r :: rs, hlen => by
    rw [addSums, List.zipWith_cons_cons, addSums_eq ss rs (Nat.succ.inj hlen)]

theorem startContext_eq (ctx : Stroke) (f : Sample) :
    startContext ctx f =
      { ctx with
          startDisplacement := if ctx.startDisplacement = none then some f.displacement else ctx.startDisplacement } := by
  unfold startContext
  cases ctx.startDisplacement <;> rfl

/-- A tare frame's context, as the manual gives it. -/
theorem addTare_startContext {ctx : Stroke} {f : Sample} (hlen : ctx.tareSums.length = f.raws.length) :
    addTare (startContext ctx f) f =
      { ctx with
          startDisplacement := if ctx.startDisplacement = none then some f.displacement else ctx.startDisplacement,
          tareSums := List.zipWith (fun x y => x + y) ctx.tareSums f.raws, tareCount := ctx.tareCount + 1,
          tareZeros :=
            if ctx.tareCount = 7 then
              some ((List.zipWith (fun x y => x + y) ctx.tareSums f.raws).map (fun x => (x + 4) / 8))
            else ctx.tareZeros } := by
  rw [startContext_eq, addTare]
  simp only [addSums_eq _ _ hlen, Nat.reduceEqDiff]
  rfl

/-- A measured frame's context, as the manual gives it. -/
theorem summarize_startContext (ctx : Stroke) (f : Sample) (forces : List Nat) :
    summarize (startContext ctx f) f forces =
      { ctx with
          startDisplacement := if ctx.startDisplacement = none then some f.displacement else ctx.startDisplacement,
          lanes := raisePeaks ctx.lanes forces, peakTotal := max ctx.peakTotal forces.sum,
          maxDepth :=
            match ctx.contact, ctx.maxDepth with
            | some c, some d => some (max d (f.displacement - c))
            | some c, none => some (f.displacement - c)
            | none, d => d } := by
  rw [startContext_eq]
  rfl

/-! ## The branches of a frame (R101, R113, R114, R116) -/

section
variable {s : State} {h : Head} {f : Sample} {held : Bool} {l : Live} {job : Job} {env : Envelope} {ctx : Stroke}

theorem State.liveFrame_faulty (hf : faultyFrame (s.head h).tool f) :
    s.liveFrame h held l job env ctx f = s.faultStroke h job env ctx .sensorFault noBreach := by
  rw [State.liveFrame, if_pos (sensorFault_iff.2 hf)]

theorem State.liveFrame_tare (hf : ¬ faultyFrame (s.head h).tool f) (hcount : ctx.tareCount < 8) :
    s.liveFrame h held .approach job env ctx f = s.tareFrame h held job env (startContext ctx f) f := by
  rw [State.liveFrame, if_neg (fun h => hf (sensorFault_iff.1 h)), if_pos ⟨rfl, hcount⟩]

theorem State.liveFrame_measured (hf : ¬ faultyFrame (s.head h).tool f) (hcount : l = .approach → 8 ≤ ctx.tareCount) :
    s.liveFrame h held l job env ctx f = s.measuredFrame h held l job env (startContext ctx f) f := by
  rw [State.liveFrame, if_neg (fun h => hf (sensorFault_iff.1 h)),
    if_neg (fun h => absurd (hcount h.1) (Nat.not_le.2 h.2))]

theorem State.tareFrame_saturated {b : Breach} (hb : saturationBreach (s.head h).tool f = some b) :
    s.tareFrame h held job env ctx f = s.faultStroke h job env (addTare ctx f) .overforce b := by
  rw [State.tareFrame, hb]

theorem State.tareFrame_past (hb : saturationBreach (s.head h).tool f = none)
    (hd : (s.site job.site).contactLimit < f.displacement) :
    s.tareFrame h held job env ctx f = s.conclude h job env (addTare ctx f) .noContact := by
  simp only [State.tareFrame, hb, if_pos hd]

theorem State.tareFrame_stays (hb : saturationBreach (s.head h).tool f = none)
    (hd : f.displacement ≤ (s.site job.site).contactLimit) :
    s.tareFrame h held job env ctx f = s.stay h held .approach job env (addTare ctx f) := by
  simp only [State.tareFrame, hb, if_neg (not_lt.2 hd)]

theorem State.measuredFrame_breach {b : Breach}
    (hb : hardLimits (s.head h).tool job.settings f (s.forces h ctx f) = some b) :
    s.measuredFrame h held l job env ctx f =
      s.faultStroke h job env (summarize ctx f (s.forces h ctx f)) .overforce b := by
  simp only [State.measuredFrame, hb]

end

/-! ## Tare frames (R113) -/

/-- Settles O42: a tare frame with no saturated lane ends the stroke past the contact limit, or stays. -/
theorem tareFramesTaken : Obligations.TareFramesTaken := by
  unfold Obligations.TareFramesTaken
  rintro s h bytes f held job env ctx ctx' ha he hcount hf hsat hlen rfl
  have hbreach : saturationBreach ((received s h f).head h).tool f = none := by
    rwa [received_tool, saturationBreach_eq_none]
  rw [← addTare_startContext hlen, exec_sampleFrame_live ha he, State.liveFrame_tare (by rwa [received_tool]) hcount]
  constructor
  · intro hd
    rw [State.tareFrame_stays hbreach (by rwa [received_site])]
    rfl
  · intro hd
    rw [State.tareFrame_past hbreach (by rwa [received_site])]
    exact ⟨_, rfl, State.conclude_concludes _ h job env _ .noContact⟩

/-! ## Contact (R114, R115, R145, R170) -/

theorem slotContacted_eq (h : Head) (job : Job) (env : Envelope) (w : WatchSlot) :
    startFilling h job env w = slotContacted h job env w := by
  have hsite : ∀ m : MatchSite, siteMatches m job.site = true ↔ some m = some .any ∨ some m = some (.site job.site) := by
    intro m
    cases m <;> simp [siteMatches]
  have hlane : ∀ lane, laneUsed env lane = ((env.lanes[lane]?).map EnvelopeLane.used).getD false := by
    intro lane
    unfold laneUsed
    cases env.lanes[lane]? <;> rfl
  unfold startFilling slotContacted
  split
  · next m lane hstate hm hl =>
    simp only [hl, hstate, hm, true_and, ← hlane, ← hsite, Bool.and_eq_true]
  · next hno =>
    split
    · next lane hl =>
      refine (if_neg ?_).symm
      rintro ⟨hstate, hm, -⟩
      rcases hm with hm | hm
      · exact hno _ _ hstate hm hl
      · exact hno _ _ hstate hm hl
    · rfl

/-- What the lines and the slots are told of a contact. -/
theorem State.contact_told (s : State) (h : Head) (job : Job) (env : Envelope) :
    (s.mark h .contact).watchContact h job env =
      { s with
          slot0 := if job.kind = Kind.press then slotContacted h job env s.slot0 else s.slot0,
          slot1 := if job.kind = Kind.press then slotContacted h job env s.slot1 else s.slot1 }.modHead h (fun u =>
        { u with
            lines :=
              { u.lines with pulse := if u.lines.markSource = MarkSource.contact then some 10 else u.lines.pulse } }) := by
  have hlines : (fun l : Lines => if l.markSource = .contact then { l with pulse := some Config.pulseMicros } else l) =
      fun l => { l with pulse := if l.markSource = .contact then some 10 else l.pulse } := by
    funext l
    split <;> rfl
  unfold State.mark State.watchContact
  rw [hlines]
  simp only [← slotContacted_eq]
  cases job.kind <;> cases h <;> rfl

section
variable {s : State} {h : Head} {f : Sample} {held : Bool} {job : Job} {env : Envelope} {ctx : Stroke}
  {forces : List Nat}

theorem State.approachFrame_contact (hc : job.settings.contactThreshold ≤ forces.sum) :
    s.approachFrame h held job env ctx f forces = s.contactFrame h held job env ctx f forces := by
  rw [State.approachFrame, if_pos hc]

theorem State.approachFrame_past (hc : forces.sum < job.settings.contactThreshold)
    (hd : (s.site job.site).contactLimit < f.displacement) :
    s.approachFrame h held job env ctx f forces = s.conclude h job env ctx .noContact := by
  rw [State.approachFrame, if_neg (not_le.2 hc), if_pos hd]

theorem State.approachFrame_stays (hc : forces.sum < job.settings.contactThreshold)
    (hd : f.displacement ≤ (s.site job.site).contactLimit) :
    s.approachFrame h held job env ctx f forces = s.stay h held .approach job env ctx := by
  rw [State.approachFrame, if_neg (not_le.2 hc), if_neg (not_lt.2 hd)]

end

/-- Settles O43: past its hard limits, a measured frame goes by the state of the stroke. -/
theorem measuredFramesByState : Obligations.MeasuredFramesByState := by
  unfold Obligations.MeasuredFramesByState
  rintro s h bytes f held l job env ctx c forces ha he hcount hf rfl hlimits hctx
  obtain rfl : c = _ := hctx.trans (summarize_startContext ctx f _).symm
  have hforces : (received s h f).forces h (startContext ctx f) f = s.forces h ctx f := by
    rw [received_forces]
    rfl
  have hnone : hardLimits ((received s h f).head h).tool job.settings f (s.forces h ctx f) = none := by
    rwa [received_tool]
  rw [exec_sampleFrame_live ha he, State.liveFrame_measured (by rwa [received_tool]) hcount]
  simp only [State.measuredFrame, hforces, hnone]
  refine ⟨?_, ?_, ?_, ?_⟩
  · rintro rfl hc
    dsimp only
    rw [State.approachFrame_contact hc, State.contactFrame, State.contact_told, received_slot0, received_slot1]
    rfl
  · rintro rfl hc
    dsimp only
    refine ⟨fun hd => ?_, fun hd => ?_⟩
    · rw [State.approachFrame_past hc (by rwa [received_site])]
      exact ⟨_, rfl, State.conclude_concludes _ h job env _ .noContact⟩
    · rw [State.approachFrame_stays hc (by rwa [received_site])]
      rfl
  · rintro rfl
    rfl
  · rintro rfl
    rfl

/-! ## Timers of a stroke (R104, R125, R146) -/

theorem anyFailed_iff {job : Job} {ctx : Stroke} :
    anyFailed job ctx = true ↔ ∃ l ∈ ctx.lanes, job.settings.excursionAllowance < l.excursions := by
  simp [anyFailed, laneFailed]

theorem seatedOutcome_failed {job : Job} {ctx : Stroke}
    (hf : ∃ l ∈ ctx.lanes, job.settings.excursionAllowance < l.excursions) : seatedOutcome job ctx = .windowFail := by
  rw [seatedOutcome, if_pos (anyFailed_iff.2 hf)]

theorem seatedOutcome_passed {job : Job} {ctx : Stroke}
    (hf : ¬ ∃ l ∈ ctx.lanes, job.settings.excursionAllowance < l.excursions) : seatedOutcome job ctx = .seatedPass := by
  rw [seatedOutcome, if_neg (fun h => hf (anyFailed_iff.1 h))]

theorem exec_dwellTimerExpiry (h : Head) (s : State) :
    exec (.dwellTimerExpiry h) s = execDwellTimerExpiry h s := by rfl

theorem exec_markPulseEnd (h : Head) (s : State) : exec (.markPulseEnd h) s = execMarkPulseEnd h s := by rfl

theorem exec_dwellTimerExpiry_dwell {h : Head} {s : State} {job : Job} {env : Envelope} {ctx : Stroke}
    (he : (s.head h).engine = .stroke .dwell job env ctx) :
    exec (.dwellTimerExpiry h) s =
      if ctx.remainingDwell = 0 then .next (s.conclude h job env ctx (seatedOutcome job ctx)) else .next s := by
  rw [exec_dwellTimerExpiry, execDwellTimerExpiry, he]

theorem exec_dwellTimerExpiry_elsewhere {h : Head} {s : State} (he : engineState (s.head h).engine ≠ .dwell) :
    exec (.dwellTimerExpiry h) s = .next s := by
  rw [exec_dwellTimerExpiry, execDwellTimerExpiry]
  split <;> simp_all [engineState, phaseState]

/-- Settles O48: the dwell decides by the failed lanes, the pulse ends with no time left. -/
theorem dwellAndPulseEnd : Obligations.DwellAndPulseEnd := by
  unfold Obligations.DwellAndPulseEnd
  refine fun s h => ⟨fun job env ctx he => ⟨fun hd => ?_, fun hd => ?_⟩, exec_dwellTimerExpiry_elsewhere,
    fun hp => ?_, fun hp => ?_⟩
  · rw [exec_dwellTimerExpiry_dwell he, if_pos hd]
    refine ⟨_, rfl, fun hf => ?_, fun hf => ?_⟩
    · rw [seatedOutcome_failed hf]
      exact s.conclude_concludes h job env ctx .windowFail
    · rw [seatedOutcome_passed (fun ⟨l, hl, hl'⟩ => absurd (hf l hl) (Nat.not_le.2 hl'))]
      exact s.conclude_concludes h job env ctx .seatedPass
  · rw [exec_dwellTimerExpiry_dwell he, if_neg hd]
  · rw [exec_markPulseEnd, execMarkPulseEnd, if_pos hp]
    rfl
  · rw [exec_markPulseEnd, execMarkPulseEnd, if_neg hp]

end Sys2Proof.Machine
end

section
/-! PROOF. The faults of a stroke, before its verdict and in RETRACT, and the end of RETRACT (R101 to R104, R116, R129 to
R133). -/

namespace Sys2Proof.Machine

/-! ## The silence timer (R104) -/

theorem exec_silenceTimerExpiry (h : Head) (s : State) :
    exec (.silenceTimerExpiry h) s = execSilenceTimerExpiry h s := by rfl

section
variable {s : State} {h : Head} {job : Job} {env : Envelope} {ctx : Stroke}

theorem exec_silenceTimerExpiry_early (hs : (s.head h).link.silence ≠ some 0) :
    exec (.silenceTimerExpiry h) s = .next s := by
  rw [exec_silenceTimerExpiry, execSilenceTimerExpiry, if_neg hs]

theorem exec_silenceTimerExpiry_live {held : Bool} {l : Live} (hs : (s.head h).link.silence = some 0)
    (he : (s.head h).engine = .stroke (phaseOf held l) job env ctx) :
    exec (.silenceTimerExpiry h) s = .next (s.faultStroke h job env ctx .linkLost noBreach) := by
  rw [exec_silenceTimerExpiry, execSilenceTimerExpiry, if_pos hs, he]
  simp only [phaseLive_phaseOf]

theorem exec_silenceTimerExpiry_retract (hs : (s.head h).link.silence = some 0)
    (he : (s.head h).engine = .stroke .retract job env ctx) :
    exec (.silenceTimerExpiry h) s = .next (s.lateFault h job env ctx .linkLost) := by
  rw [exec_silenceTimerExpiry, execSilenceTimerExpiry, if_pos hs, he]
  rfl

/-- Where no stroke runs, or the stroke has faulted, an expiry stops the timer. -/
theorem exec_silenceTimerExpiry_elsewhere (hs : (s.head h).link.silence = some 0)
    (he : strokeRuns (s.head h).engine = false ∨ engineState (s.head h).engine = .faulted) :
    exec (.silenceTimerExpiry h) s = .next (s.setSilence h none) := by
  rw [exec_silenceTimerExpiry, execSilenceTimerExpiry, if_pos hs]
  split
  · next ph job env ctx hstroke =>
    rw [hstroke] at he
    cases ph <;> simp [strokeRuns, engineState, phaseState, phaseLive] at he ⊢
  · rfl
  · rfl
  · rfl

end

/-! ## Faults in RETRACT (R129, R133) -/

theorem State.lateFault_eq (s : State) (h : Head) (job : Job) (env : Envelope) (ctx : Stroke) (o : StrokeOutcome) :
    s.lateFault h job env ctx o =
      (s.modHead h (fun u => faultedUnit u job env ctx)).postHead h
        { kind := .strokeFault, head := some h, site := some job.site, reason := some (outcomeCode o), station := none,
          lane := none } := by
  cases h <;> rfl

theorem State.retractLimits_eq (s : State) (h : Head) (job : Job) (ctx : Stroke) (f : Sample) :
    s.retractLimits h job ctx f =
      if ctx.tareZeros ≠ none then hardLimits (s.head h).tool job.settings f (s.forces h ctx f)
      else if saturatedLanes (s.head h).tool f ≠ [] then
        some { offending := List.range (s.head h).tool.laneCount,
               faultLane := (saturatedLanes (s.head h).tool f).head? }
      else none := by
  unfold State.retractLimits
  cases hz : ctx.tareZeros with
  | none => simp only [saturationBreach_eq, ne_eq, not_true_eq_false, if_false]
  | some zeros => simp

section
variable {s : State} {h : Head} {f : Sample} {job : Job} {env : Envelope} {ctx : Stroke}

theorem State.retractFrame_faulty (hf : faultyFrame (s.head h).tool f) :
    s.retractFrame h job env ctx f = s.lateFault h job env ctx .sensorFault := by
  rw [State.retractFrame, if_pos (sensorFault_iff.2 hf)]

theorem State.retractFrame_breach {b : Breach} (hf : ¬ faultyFrame (s.head h).tool f)
    (hb : s.retractLimits h job ctx f = some b) :
    s.retractFrame h job env ctx f =
      s.lateFault h job env { ctx with offending := b.offending, faultLane := b.faultLane } .overforce := by
  rw [State.retractFrame, if_neg (fun h => hf (sensorFault_iff.1 h)), hb]

/-- A frame in RETRACT that is no late fault, by the target that stands after it. -/
theorem State.retractFrame_sound {target : Int} (hf : ¬ faultyFrame (s.head h).tool f)
    (hb : s.retractLimits h job ctx f = none) (ht : ctx.retractTarget.getD f.displacement = target) :
    s.retractFrame h job env ctx f =
      if f.displacement ≤ target then
        s.endStroke h job { ctx with retractTarget := some target } (recordedOutcome ctx) false
      else s.setEngine h (.stroke .retract job env { ctx with retractTarget := some target }) := by
  subst ht
  rw [State.retractFrame, if_neg (fun h => hf (sensorFault_iff.1 h)), hb]

end

/-- Settles O46: each fault goes through the one fault of a stroke, or the late fault of RETRACT. -/
theorem faultsStopHead : Obligations.FaultsStopHead := by
  unfold Obligations.FaultsStopHead
  intro s h job env ctx
  refine ⟨fun held l he => ⟨?_, ?_, ?_, ?_⟩, fun he => ⟨?_, ?_⟩, ?_, exec_silenceTimerExpiry_elsewhere,
    exec_silenceTimerExpiry_early⟩
  · intro bytes f ha hf
    rw [exec_sampleFrame_live ha he, State.liveFrame_faulty (by rwa [received_tool])]
    exact ⟨_, rfl, State.faultStroke_faults _ h job env ctx .sensorFault noBreach⟩
  · rintro bytes f k ha hf rfl hcount hk hsat hlow
    have hb := saturationBreach_lowest hk hsat hlow
    rw [← received_tool s h f] at hb
    rw [exec_sampleFrame_live ha he, State.liveFrame_tare (by rwa [received_tool]) hcount,
      State.tareFrame_saturated hb, received_tool]
    exact ⟨_, rfl, State.faultStroke_faults _ h job env _ .overforce ⟨List.range _, some k⟩⟩
  · rintro bytes f forces b ha hf hcount rfl hb
    have hforces : (received s h f).forces h (startContext ctx f) f = s.forces h ctx f := by
      rw [received_forces]
      rfl
    rw [exec_sampleFrame_live ha he, State.liveFrame_measured (by rwa [received_tool]) hcount,
      State.measuredFrame_breach (by rwa [received_tool, hforces]), hforces]
    exact ⟨_, rfl, State.faultStroke_faults _ h job env _ .overforce b⟩
  · intro hs
    exact ⟨_, exec_silenceTimerExpiry_live hs he, s.faultStroke_faults h job env ctx .linkLost noBreach⟩
  · intro bytes f o late ha hlate
    rw [exec_sampleFrame_retract ha he]
    rcases hlate with ⟨hf, rfl, rfl⟩ | ⟨hf, rfl, b, hb, rfl⟩
    · rw [State.retractFrame_faulty (by rwa [received_tool]), State.lateFault_eq]
    · rw [State.retractFrame_breach (by rwa [received_tool]) (by rwa [received_retractLimits]), State.lateFault_eq]
  · intro hs
    rw [exec_silenceTimerExpiry_retract hs he, State.lateFault_eq]
  · rintro f sat rfl
    exact s.retractLimits_eq h job ctx f

/-! ## The end of RETRACT (R129 to R131) -/

/-- Settles O47: at its target the stroke ends, above it stays, and the first frame sets an absent target. -/
theorem retractEnds : Obligations.RetractEnds := by
  unfold Obligations.RetractEnds
  intro s h bytes f job env ctx target ha he hf hb ht
  have htarget : ctx.retractTarget.getD f.displacement = target := by
    rcases ht with ht | ⟨ht, rfl⟩ <;> rw [ht] <;> rfl
  rw [exec_sampleFrame_retract ha he,
    State.retractFrame_sound (by rwa [received_tool]) (by rwa [received_retractLimits]) htarget]
  constructor
  · intro hd
    rw [if_neg (not_le.2 hd)]
    rfl
  · intro hd o prior fate ho hprior hfate
    have hback : returnState ((received s h f).site job.site) = priorSite prior := by
      rw [received_site, returnState, hprior]
      rfl
    have hout : recordedOutcome ctx = o := by rw [recordedOutcome, ho]; rfl
    obtain ⟨hends, hkept⟩ := State.endStroke_endsIdle (received s h f) h job
      { ctx with retractTarget := some target } o false fate (hback ▸ hfate)
    rw [if_pos hd, hout]
    refine ⟨_, rfl, hends, ?_⟩
    cases h <;> exact hkept

end Sys2Proof.Machine
end

section
/-! PROOF. The movements of the INTERLOCK input (R147 to R151). -/

namespace Sys2Proof.Machine

section
variable {s : State} {h : Head}

/-! ## A movement by the reading (R147) -/

theorem State.interlockMoved_same {before : Bool} (hr : interlockActive (s.head h) = before) :
    s.interlockMoved h before = s := by
  rw [State.interlockMoved, if_pos hr]

theorem State.interlockMoved_on (hr : interlockActive (s.head h) = true) :
    s.interlockMoved h false = s.interlockOn h := by
  rw [State.interlockMoved, if_neg (by simp [hr]), if_pos hr]

theorem State.interlockMoved_off (hr : interlockActive (s.head h) = false) :
    s.interlockMoved h true = s.interlockOff h := by
  rw [State.interlockMoved, if_neg (by simp [hr]), if_neg (by simp [hr])]

/-! ## Becoming active (R148, R151) -/

/-- Outside the states a stroke is judged in, the interlock does nothing on becoming active. -/
theorem State.interlockOn_unheeded
    (he : ∀ held l job env ctx, (s.head h).engine ≠ .stroke (phaseOf held l) job env ctx) :
    s.interlockOn h = s := by
  unfold State.interlockOn
  split
  · next ph job env ctx hstroke =>
    have hph : phaseLive ph = none := by
      cases hlive : phaseLive ph with
      | none => rfl
      | some x => exact absurd (phaseLive_eq_some (hlive.trans rfl) ▸ hstroke) (he x.1 x.2 job env ctx)
    rw [hph]
  · rfl
  · rfl
  · rfl

section
variable {l : Live} {job : Job} {env : Envelope} {ctx : Stroke}

theorem State.interlockOn_abort {held : Bool} (he : (s.head h).engine = .stroke (phaseOf held l) job env ctx)
    (ha : (s.head h).settings.interlockAction = .abort) : s.interlockOn h = s.interlockAbort h job env ctx := by
  simp only [State.interlockOn, he, phaseLive_phaseOf, ha]

theorem State.interlockOn_holds (he : (s.head h).engine = .stroke (livePhase l) job env ctx)
    (ha : (s.head h).settings.interlockAction ≠ .abort) : s.interlockOn h = s.hold h l job env ctx := by
  have hlive : phaseLive (livePhase l) = some (false, l) := phaseLive_phaseOf false l
  cases haction : (s.head h).settings.interlockAction with
  | abort => exact absurd haction ha
  | holdLevel => simp only [State.interlockOn, he, hlive, haction]
  | holdLatch => simp only [State.interlockOn, he, hlive, haction]

theorem State.interlockOn_held (he : (s.head h).engine = .stroke (.held l) job env ctx)
    (ha : (s.head h).settings.interlockAction ≠ .abort) : s.interlockOn h = s := by
  cases haction : (s.head h).settings.interlockAction with
  | abort => exact absurd haction ha
  | holdLevel => simp only [State.interlockOn, he, phaseLive, haction]
  | holdLatch => simp only [State.interlockOn, he, phaseLive, haction]

/-! ## Becoming inactive (R149, R150) -/

theorem State.interlockOff_returns (he : (s.head h).engine = .stroke (.held l) job env ctx)
    (ha : (s.head h).settings.interlockAction = .holdLevel) : s.interlockOff h = s.returnFromHeld h l job env ctx := by
  simp only [State.interlockOff, he, ha]

end

theorem State.interlockOff_unheeded
    (he : engineState (s.head h).engine ≠ .held ∨ (s.head h).settings.interlockAction ≠ .holdLevel) :
    s.interlockOff h = s := by
  unfold State.interlockOff
  split
  · next hstroke haction =>
    rw [hstroke, haction] at he
    simp [engineState, phaseState] at he
  · rfl

/-- An engine that is no stroke, or in RETRACT or FAULTED, is in no state a stroke is judged in. -/
theorem not_live_of_done {e : Engine}
    (he : strokeRuns e = false ∨ engineState e = .retract ∨ engineState e = .faulted) (held : Bool) (l : Live)
    (job : Job) (env : Envelope) (ctx : Stroke) : e ≠ .stroke (phaseOf held l) job env ctx := by
  rintro rfl
  cases held <;> cases l <;> simp [strokeRuns, engineState, phaseOf, livePhase, phaseState] at he

/-- A movement leaves such an engine alone. -/
theorem State.interlockMoved_unheeded (before : Bool)
    (he : strokeRuns (s.head h).engine = false ∨ engineState (s.head h).engine = .retract ∨
      engineState (s.head h).engine = .faulted) : s.interlockMoved h before = s := by
  have hheld : engineState (s.head h).engine ≠ .held := fun hh => by
    obtain ⟨l, job, env, ctx, hstroke⟩ := engineState_eq_held hh
    exact not_live_of_done he true l job env ctx hstroke
  unfold State.interlockMoved
  split
  · rfl
  · split
    · exact State.interlockOn_unheeded (not_live_of_done he)
    · exact State.interlockOff_unheeded (.inl hheld)

end

@[simp] theorem State.withInput_engine (s : State) (h : Head) (level : Bool) :
    ((s.withInput h level).head h).engine = (s.head h).engine := by cases h <;> rfl

@[simp] theorem State.withInput_settings (s : State) (h : Head) (level : Bool) :
    ((s.withInput h level).head h).settings = (s.head h).settings := by cases h <;> rfl

/-- Settles O49: a movement goes by the reading before and after it, the engine's state and the action. -/
theorem interlockActs : Obligations.InterlockActs := by
  unfold Obligations.InterlockActs
  intro s u h level hu
  obtain rfl : u = s.withInput h level := hu
  have hexec := exec_interlockChange s h level
  refine ⟨fun hr => ?_, fun he => ?_, fun hoff hon l job env ctx => ⟨fun he ha => ?_, fun he ha => ?_, fun he ha => ?_⟩,
    fun hon hoff => ⟨fun l job env ctx he ha => ?_, fun he => ?_⟩⟩
  · rw [hexec, State.interlockMoved_same hr]
  · rw [hexec, State.interlockMoved_unheeded _ (by rwa [State.withInput_engine])]
  · rw [hexec, hoff, State.interlockMoved_on hon,
      State.interlockOn_holds (by rwa [State.withInput_engine]) (by rwa [State.withInput_settings])]
    rfl
  · rw [hexec, hoff, State.interlockMoved_on hon,
      State.interlockOn_held (by rwa [State.withInput_engine]) (by rwa [State.withInput_settings])]
  · have hlive : ∃ held, (s.head h).engine = .stroke (phaseOf held l) job env ctx := by
      rcases he with he | he
      · exact ⟨false, he⟩
      · exact ⟨true, he⟩
    obtain ⟨held, he⟩ := hlive
    rw [hexec, hoff, State.interlockMoved_on hon,
      State.interlockOn_abort (held := held) (by rwa [State.withInput_engine]) (by rwa [State.withInput_settings])]
    exact ⟨_, rfl, State.interlockAbort_concludes _ h job env ctx⟩
  · rw [hexec, hon, State.interlockMoved_off hoff,
      State.interlockOff_returns (by rwa [State.withInput_engine]) (by rwa [State.withInput_settings])]
    rfl
  · rw [hexec, hon, State.interlockMoved_off hoff,
      State.interlockOff_unheeded (by rwa [State.withInput_engine, State.withInput_settings])]

end Sys2Proof.Machine
end

section
/-! PROOF. The stations of an ENGAGE frame, and what the frame comes to after them (R117 to R123, R138, R145, R171). -/

namespace Sys2Proof.Machine

/-! ## The stations that a frame reaches (R118) -/

theorem filter_range_between (a b : Nat) : ∀ n : Nat,
    (List.range n).filter (fun k => decide (a ≤ k ∧ k < b)) = List.range' a (min n b - a)
  | 0 => by simp
  | n + 1 => by
    rw [List.range_succ, List.filter_append, filter_range_between a b n]
    by_cases hn : a ≤ n ∧ n < b
    · have hlast : min (n + 1) b - a = (min n b - a) + 1 := by omega
      have hk : a + 1 * (min n b - a) = n := by omega
      rw [hlast, List.range'_concat, hk]
      simp [hn]
    · have hlast : min (n + 1) b - a = min n b - a := by omega
      rw [hlast]
      simp only [List.filter_cons, List.filter_nil, decide_eq_true_eq, if_neg hn, List.append_nil]

/-- The stations of a frame are those of the count, from the index on, that lie at or above it. -/
theorem stationsReached_eq {pitch : Nat} (index count : Nat) (d : Int) (hp : 0 < pitch) :
    stationsReached index count pitch d = reachedStations count index pitch d := by
  unfold stationsReached reachedStations stationReach
  by_cases hd : d < 0
  · have hnone : ∀ k ∈ List.range count, ¬ (index ≤ k ∧ ((k * pitch : Nat) : Int) ≤ d) := fun k _ h => by omega
    rw [if_pos hd, Nat.sub_self, List.filter_eq_nil_iff.2 (by simpa using hnone)]
    rfl
  · have hreach : ∀ k : Nat, ((k * pitch : Nat) : Int) ≤ d ↔ k < d.toNat / pitch + 1 := fun k => by
      rw [Nat.lt_succ_iff, Nat.le_div_iff_mul_le hp]
      omega
    have hlen : max index (min count (d.toNat / pitch + 1)) - index = min count (d.toNat / pitch + 1) - index := by
      omega
    simp only [hreach, filter_range_between, if_neg hd, hlen]

/-! ## Excursions (R119) -/

theorem laneExcursions_eq (e : EnvelopeLane) (force : Nat) (ks : List Nat) :
    laneExcursions e force ks = excursionsOf ks e force := by
  unfold laneExcursions excursionsOf
  cases e.used with
  | false => rfl
  | true =>
    cases e.bounds with
    | none => simp
    | some bs =>
      simp only [if_true, Option.bind_some]
      refine List.filter_congr (fun k _ => ?_)
      cases bs[k]? <;> rfl

theorem addExcursions_eq (l : LaneTally) (ks : List Nat) : addExcursions l ks = talliedWith l ks := by
  unfold addExcursions talliedWith
  cases l.first <;> rfl

theorem judgeLanes_length (ks : List Nat) : ∀ (es : List EnvelopeLane) (fs : List Nat) (ls : List LaneTally),
    (judgeLanes ks es fs ls).length = ls.length
  | e :: es, f :: fs, l :: ls => by rw [judgeLanes, List.length_cons, judgeLanes_length ks es fs ls, List.length_cons]
  | [], _, ls => by rw [judgeLanes]
  | _ :: _, [], ls => by rw [judgeLanes]
  | _ :: _, _ :: _, [] => by rw [judgeLanes]

theorem judgeLanes_get (ks : List Nat) : ∀ (es : List EnvelopeLane) (fs : List Nat) (ls : List LaneTally) (k : Nat)
    (e : EnvelopeLane) (force : Nat) (l : LaneTally), es[k]? = some e → fs[k]? = some force → ls[k]? = some l →
    (judgeLanes ks es fs ls)[k]? = some (talliedWith l (excursionsOf ks e force))
  | [], _, _, _, _, _, _, he, _, _ => by simp at he
  | _ :: _, [], _, _, _, _, _, _, hf, _ => by simp at hf
  | _ :: _, _ :: _, [], _, _, _, _, _, _, hl => by simp at hl
  | _ :: _, _ :: _, _ :: _, 0, _, _, _, he, hf, hl => by
    obtain rfl := Option.some.inj he
    obtain rfl := Option.some.inj hf
    obtain rfl := Option.some.inj hl
    rw [judgeLanes, List.getElem?_cons_zero, addExcursions_eq, laneExcursions_eq]
  | _ :: es, _ :: fs, _ :: ls, k + 1, e, force, l, he, hf, hl => by
    rw [judgeLanes, List.getElem?_cons_succ]
    exact judgeLanes_get ks es fs ls k e force l he hf hl

theorem anyExcursion_iff (ks : List Nat) : ∀ (es : List EnvelopeLane) (fs : List Nat),
    anyExcursion ks es fs = true ↔
      ∃ (k : Nat) (e : EnvelopeLane) (force : Nat), es[k]? = some e ∧ fs[k]? = some force ∧ excursionsOf ks e force ≠ []
  | [], _ => by simp [anyExcursion]
  | _ :: _, [] => by simp [anyExcursion]
  | e :: es, f :: fs => by
    have hhead : (!(laneExcursions e f ks).isEmpty) = true ↔ excursionsOf ks e f ≠ [] := by
      rw [laneExcursions_eq]
      simp
    rw [anyExcursion, Bool.or_eq_true, hhead, anyExcursion_iff ks es fs]
    constructor
    · rintro (h | ⟨k, e', force, he, hf, hx⟩)
      · exact ⟨0, e, f, rfl, rfl, h⟩
      · exact ⟨k + 1, e', force, he, hf, hx⟩
    · rintro ⟨_ | k, e', force, he, hf, hx⟩
      · obtain rfl := Option.some.inj he
        obtain rfl := Option.some.inj hf
        exact .inl hx
      · exact .inr ⟨k, e', force, he, hf, hx⟩

/-! ## What the lines and the slots are told (R145, R171) -/

theorem capture_eq (h : Head) (env : Envelope) (displacement : Int) (forces ks : List Nat) (w : WatchSlot) :
    capture h env displacement forces ks w = slotTraced h env ks displacement forces w := by
  have hbounds : ∀ lane k, boundsAt env lane k = ((env.lanes[lane]?).bind EnvelopeLane.bounds).bind (fun bs => bs[k]?) :=
    fun lane k => by
      unfold boundsAt
      cases env.lanes[lane]? <;> rfl
  unfold capture slotTraced entriesOf traceEntries
  simp only [hbounds]
  cases hl : w.matchLane <;> cases hf : fillingFrom h w <;> rfl

theorem State.mark_eq (s : State) (h : Head) (source : MarkSource) :
    s.mark h source =
      s.modHead h (fun u =>
        { u with
            lines := { u.lines with pulse := if u.lines.markSource = source then some 10 else u.lines.pulse } }) := by
  have hlines : (fun l : Lines => if l.markSource = source then { l with pulse := some Config.pulseMicros } else l) =
      fun l => { l with pulse := if l.markSource = source then some 10 else l.pulse } := by
    funext l
    split <;> rfl
  unfold State.mark
  rw [hlines]
  rfl

/-- The pulses of a frame's stations, by what the source of MARK is. -/
theorem State.marked_eq (s : State) (h : Head) (reached hit : Bool) :
    (if hit then (if reached then s.mark h .station else s).mark h .excursion
      else if reached then s.mark h .station else s) =
      s.modHead h (fun u =>
        { u with
            lines :=
              { u.lines with
                  pulse :=
                    if u.lines.markSource = MarkSource.station ∧ reached = true ∨
                        u.lines.markSource = MarkSource.excursion ∧ hit = true then some 10
                    else u.lines.pulse } }) := by
  simp only [State.mark_eq]
  cases reached <;> cases hit
  · cases h <;> simp [State.modHead]
  · cases h <;> simp [State.modHead]
  · cases h <;> simp [State.modHead]
  · have hsource : ∀ m : MarkSource, (m = .station ∨ m = .excursion) ↔ (m = .excursion ∨ m = .station) :=
      fun m => or_comm
    cases h <;> simp [State.modHead, ite_or, hsource]

/-- What a frame's stations tell the lines and the slots. -/
theorem State.tellStations_eq (s : State) (h : Head) (job : Job) (env : Envelope) (ctx : Stroke) (f : Sample)
    (forces : List Nat) :
    s.tellStations h job env ctx f forces =
      { s with
          slot0 := slotTraced h env (frameStations job env ctx f) f.displacement forces s.slot0,
          slot1 := slotTraced h env (frameStations job env ctx f) f.displacement forces s.slot1 }.modHead h (fun u =>
        { u with
            lines :=
              { u.lines with
                  pulse :=
                    if u.lines.markSource = MarkSource.station ∧ (!(frameStations job env ctx f).isEmpty) = true ∨
                        u.lines.markSource = MarkSource.excursion ∧
                          anyExcursion (frameStations job env ctx f) env.lanes forces = true then some 10
                    else u.lines.pulse } }) := by
  have hmarked := s.marked_eq h (!(frameStations job env ctx f).isEmpty)
    (anyExcursion (frameStations job env ctx f) env.lanes forces)
  have htold : (if (frameStations job env ctx f).isEmpty then s else s.mark h .station) =
      if (!(frameStations job env ctx f).isEmpty) = true then s.mark h .station else s := by
    cases (frameStations job env ctx f).isEmpty <;> rfl
  unfold State.tellStations
  dsimp only
  rw [htold, hmarked, State.watchStations, capture_eq, capture_eq]
  cases h <;> rfl

/-- Settles O44: the stations of a frame, and their excursions in the tallies, the pulses and the traces. -/
theorem stationsEvaluated : Obligations.StationsEvaluated := by
  unfold Obligations.StationsEvaluated
  intro s h job env ctx f forces ks hit hp hks hhit
  obtain rfl : ks = frameStations job env ctx f := hks.trans (stationsReached_eq _ _ _ hp).symm
  obtain rfl : hit = anyExcursion (frameStations job env ctx f) env.lanes forces :=
    Bool.eq_iff_iff.2 (hhit.trans (anyExcursion_iff _ _ _).symm)
  refine ⟨⟨_, rfl, judgeLanes_length _ _ _ _, judgeLanes_get _ _ _ _⟩, ?_⟩
  have hreached : ((!(frameStations job env ctx f).isEmpty) = true) = (frameStations job env ctx f ≠ []) := by simp
  rw [State.tellStations_eq]
  simp only [hreached]

/-! ## What the frame comes to (R120, R121, R123, R138) -/

theorem seatTest_past {x : Site} {seatTotal total : Nat} {d : Int} (hd : (x.seatDepth : Int) + x.seatTolerance < d) :
    seatTest x seatTotal total d = .notSeated := by
  rw [seatTest, if_pos hd]

theorem seatTest_below {x : Site} {seatTotal total : Nat} {d : Int} (hd : d ≤ (x.seatDepth : Int) + x.seatTolerance)
    (ht : total < seatTotal) : seatTest x seatTotal total d = .none := by
  rw [seatTest, if_neg (not_lt.2 hd), if_pos ht]

theorem seatTest_early {x : Site} {seatTotal total : Nat} {d : Int} (hd : d < (x.seatDepth : Int) - x.seatTolerance)
    (ht : seatTotal ≤ total) : seatTest x seatTotal total d = .early := by
  rw [seatTest, if_neg (by omega), if_neg (not_lt.2 ht), if_pos hd]

theorem seatTest_seated {x : Site} {seatTotal total : Nat} {d : Int} (hlow : (x.seatDepth : Int) - x.seatTolerance ≤ d)
    (hhigh : d ≤ (x.seatDepth : Int) + x.seatTolerance) (ht : seatTotal ≤ total) :
    seatTest x seatTotal total d = .seated := by
  rw [seatTest, if_neg (not_lt.2 hhigh), if_neg (not_lt.2 ht), if_neg (not_lt.2 hlow)]

section
variable {s : State} {h : Head} {held : Bool} {job : Job} {env : Envelope} {ctx : Stroke} {f : Sample}
  {forces : List Nat}

theorem State.pressEnd_stopped (ha : job.settings.failAction = .stop) (hf : anyFailed job ctx = true) :
    s.pressEnd h held job env ctx f forces = s.conclude h job env ctx .windowFail := by
  rw [State.pressEnd, if_pos ⟨ha, hf⟩]

/-! Where the excursion stop does not end the stroke, the seat test decides. -/

section
variable (hn : ¬ (job.settings.failAction = .stop ∧ anyFailed job ctx = true))
include hn

theorem State.pressEnd_stays
    (hr : seatTest (s.site job.site) env.seatTotal forces.sum (f.displacement - ctx.contact.getD 0) = .none) :
    s.pressEnd h held job env ctx f forces = s.stay h held .engage job env ctx := by
  simp only [State.pressEnd, if_neg hn, hr]

theorem State.pressEnd_early
    (hr : seatTest (s.site job.site) env.seatTotal forces.sum (f.displacement - ctx.contact.getD 0) = .early) :
    s.pressEnd h held job env ctx f forces = s.conclude h job env ctx .earlySeat := by
  simp only [State.pressEnd, if_neg hn, hr]

theorem State.pressEnd_notSeated
    (hr : seatTest (s.site job.site) env.seatTotal forces.sum (f.displacement - ctx.contact.getD 0) = .notSeated) :
    s.pressEnd h held job env ctx f forces = s.conclude h job env ctx .notSeated := by
  simp only [State.pressEnd, if_neg hn, hr]

theorem State.pressEnd_seated
    (hr : seatTest (s.site job.site) env.seatTotal forces.sum (f.displacement - ctx.contact.getD 0) = .seated) :
    s.pressEnd h held job env ctx f forces = s.seat h held job env ctx (f.displacement - ctx.contact.getD 0) := by
  simp only [State.pressEnd, if_neg hn, hr]

end

theorem State.tellStations_site (i : Nat) : (s.tellStations h job env ctx f forces).site i = s.site i := by
  rw [State.tellStations_eq, State.modHead_site]
  rfl

theorem State.seat_dwells {d : Int} (hd : 0 < job.settings.dwell) :
    s.seat h held job env ctx d =
      s.stay h held .dwell job env
        { ctx with seatedDepth := some d, remainingDwell := job.settings.dwell * Config.microsPerMilli } := by
  rw [State.seat, if_neg (Nat.pos_iff_ne_zero.1 hd)]

theorem State.seat_decides {d : Int} (hd : job.settings.dwell = 0) :
    s.seat h held job env ctx d =
      s.conclude h job env { ctx with seatedDepth := some d } (seatedOutcome job ctx) := by
  rw [State.seat, if_pos hd]
  rfl

/-! ## A VERIFY stroke (R138) -/

theorem State.engageFrame_verify {threshold : Nat} (hk : job.kind = .verify)
    (ht : env.verifyThreshold = some threshold) :
    s.engageFrame h held job env ctx f forces =
      if (job.settings.verifyTravel : Int) < f.displacement - ctx.contact.getD 0 then
        s.conclude h job env ctx .verifyFail
      else if threshold ≤ forces.sum then s.conclude h job env ctx .verifyPass
      else s.stay h held .engage job env ctx := by
  rw [State.engageFrame, hk]
  dsimp only
  rw [State.verifyEnd, ht]
  rfl

theorem State.engageFrame_press (hk : job.kind = .press) :
    s.engageFrame h held job env ctx f forces =
      (s.tellStations h job env ctx f forces).pressEnd h held job env (evaluateStations job env ctx f forces) f
        forces := by
  rw [State.engageFrame, hk]

end

/-- Settles O45: after its stations, a PRESS frame goes by the excursion stop and the seat test, a VERIFY frame by its travel
and threshold. -/
theorem engageDecides : Obligations.EngageDecides := by
  unfold Obligations.EngageDecides
  rintro s h held job env ctx f forces d rfl
  refine ⟨?_, ?_⟩
  · rintro c u x failed hk rfl hu rfl hfailed
    obtain ⟨hsite, hframe⟩ : u.site job.site = s.site job.site ∧ s.engageFrame h held job env ctx f forces =
        u.pressEnd h held job env (evaluateStations job env ctx f forces) f forces :=
      ⟨hu ▸ State.tellStations_site _, hu ▸ State.engageFrame_press hk⟩
    rw [hframe]
    have hany : anyFailed job (evaluateStations job env ctx f forces) = true ↔ failed := anyFailed_iff.trans hfailed.symm
    clear hframe hu
    rw [← hsite]
    have hdepth : (evaluateStations job env ctx f forces).contact = ctx.contact := rfl
    rw [← hdepth]
    generalize evaluateStations job env ctx f forces = c at hany hfailed ⊢
    refine ⟨fun ha hf => ?_, fun hn => ?_⟩
    · rw [State.pressEnd_stopped ha (hany.2 hf)]
      exact u.conclude_concludes h job env c .windowFail
    · rw [← hany] at hn
      refine ⟨fun hd => ?_, fun hd ht => ?_, fun hd ht => ?_, fun hlow hhigh ht => ?_⟩
      · rw [State.pressEnd_notSeated hn (seatTest_past hd)]
        exact u.conclude_concludes h job env c .notSeated
      · rw [State.pressEnd_stays hn (seatTest_below hd ht)]
        rfl
      · rw [State.pressEnd_early hn (seatTest_early hd ht)]
        exact u.conclude_concludes h job env c .earlySeat
      · rw [State.pressEnd_seated hn (seatTest_seated hlow hhigh ht)]
        refine ⟨fun hdwell => ?_, fun hdwell => ⟨fun hf => ?_, fun hf => ?_⟩⟩
        · rw [State.seat_dwells hdwell]
          rfl
        · rw [State.seat_decides hdwell, seatedOutcome_failed (hfailed.1 hf)]
          exact u.conclude_concludes h job env _ .windowFail
        · rw [State.seat_decides hdwell, seatedOutcome_passed (fun h => hf (hfailed.2 h))]
          exact u.conclude_concludes h job env _ .seatedPass
  · intro threshold hk ht
    rw [State.engageFrame_verify hk ht]
    refine ⟨fun hd => ?_, fun hd hf => ?_, fun hd hf => ?_⟩
    · rw [if_pos hd]
      exact s.conclude_concludes h job env ctx .verifyFail
    · rw [if_neg (not_lt.2 hd), if_pos hf]
      exact s.conclude_concludes h job env ctx .verifyPass
    · rw [if_neg (not_lt.2 hd), if_neg (not_le.2 hf)]
      rfl

end Sys2Proof.Machine
end

section
/-! PROOF. The completion of a composition (R76, R81, R82, R84, R89, R90). -/

namespace Sys2Proof.Machine

/-! ## The walk over the live pins (R81) -/

/-- Whether a live pin fails one of the two tests of a composition. -/
def State.pinFails (s : State) (laneCount k : Nat) : Prop :=
  laneCount ≤ (s.pin k).lane ∨ s.activeProfile (s.pin k) = none

/-- The failure that a pin which fails a test ends the composition with. -/
def State.pinFailure (s : State) (laneCount k : Nat) : CompositionFailure :=
  if laneCount ≤ (s.pin k).lane then { reason := .toolInvalid, station := some k, lane := some (s.pin k).lane }
  else { reason := .profileMissing, station := some k, lane := none }

theorem State.walkPins_fails {s : State} {laneCount k : Nat} (ps : List (Nat × Pin)) (hk : s.pinFails laneCount k) :
    s.walkPins laneCount ((k, s.pin k) :: ps) = some (s.pinFailure laneCount k) := by
  unfold State.walkPins State.pinFailure
  split
  · rfl
  · next hlane =>
    have hnone : (s.activeProfile (s.pin k)).isNone = true := by simp [hk.resolve_left hlane]
    rw [if_pos hnone]

theorem State.walkPins_passes {s : State} {laneCount k : Nat} (ps : List (Nat × Pin)) (hk : ¬ s.pinFails laneCount k) :
    s.walkPins laneCount ((k, s.pin k) :: ps) = s.walkPins laneCount ps := by
  obtain ⟨hlane, hprofile⟩ := not_or.1 hk
  have hsome : ¬ (s.activeProfile (s.pin k)).isNone = true := by simpa using hprofile
  rw [State.walkPins, if_neg hlane, if_neg hsome]

theorem State.livePins_succ_live {s : State} {first : Nat} (n : Nat) (hl : (s.pin first).live = true) :
    s.livePins first (n + 1) = (first, s.pin first) :: s.livePins (first + 1) n := by
  rw [State.livePins, if_pos hl]

theorem State.livePins_succ_notLive {s : State} {first : Nat} (n : Nat) (hl : ¬ (s.pin first).live = true) :
    s.livePins first (n + 1) = s.livePins (first + 1) n := by
  rw [State.livePins, if_neg hl]

/-- The pin an index starts with is passed where it is not live or fails no test. -/
theorem State.walkPins_succ {s : State} {laneCount first : Nat} (n : Nat)
    (hp : (s.pin first).live = true → ¬ s.pinFails laneCount first) :
    s.walkPins laneCount (s.livePins first (n + 1)) = s.walkPins laneCount (s.livePins (first + 1) n) := by
  by_cases hl : (s.pin first).live = true
  · rw [State.livePins_succ_live n hl, State.walkPins_passes _ (hp hl)]
  · rw [State.livePins_succ_notLive n hl]

/-- The walk ends with the lowest live pin that fails. -/
theorem State.walkPins_lowest {s : State} {laneCount k : Nat} (hl : (s.pin k).live = true)
    (hk : s.pinFails laneCount k) : ∀ n first, inSpan (first, n) k →
    (∀ m, m < k → inSpan (first, n) m → (s.pin m).live = true → ¬ s.pinFails laneCount m) →
    s.walkPins laneCount (s.livePins first n) = some (s.pinFailure laneCount k)
  | 0, first, hspan, _ => by
    simp only [inSpan] at hspan
    omega
  | n + 1, first, hspan, hlow => by
    simp only [inSpan] at hspan hlow
    by_cases hfirst : k = first
    · subst hfirst
      rw [State.livePins_succ_live n hl, State.walkPins_fails _ hk]
    · rw [State.walkPins_succ n (hlow first (by omega) (by omega))]
      refine State.walkPins_lowest hl hk n (first + 1) ?_ (fun m hm hspan' => hlow m hm ?_)
      · simp only [inSpan]
        omega
      · simp only [inSpan] at hspan'
        omega

/-- The walk finds no failure where no live pin fails. -/
theorem State.walkPins_none {s : State} {laneCount : Nat} : ∀ n first,
    (∀ m, inSpan (first, n) m → (s.pin m).live = true → ¬ s.pinFails laneCount m) →
    s.walkPins laneCount (s.livePins first n) = none
  | 0, _, _ => rfl
  | n + 1, first, hpass => by
    simp only [inSpan] at hpass
    rw [State.walkPins_succ n (hpass first (by omega))]
    refine State.walkPins_none n (first + 1) (fun m hspan => hpass m ?_)
    simp only [inSpan] at hspan
    omega

/-! ## The checks of a composition (R81, R82) -/

section
variable {s : State} {h : Head} {job : Job}

theorem State.compositionFault_stations (hk : job.kind = .press)
    (hs : 128 < stationCount (s.site job.site) job.settings.stationPitch) :
    s.compositionFault h job =
      some { reason := .stationRange, station := some (stationCount (s.site job.site) job.settings.stationPitch),
             lane := none } := by
  simp only [State.compositionFault, hk]
  exact if_pos hs

theorem State.compositionFault_walk
    (hs : ¬ (job.kind = .press ∧ 128 < stationCount (s.site job.site) job.settings.stationPitch)) :
    s.compositionFault h job = s.walkPins (s.head h).tool.laneCount (s.jobPins job) := by
  cases hk : job.kind with
  | press =>
    simp only [State.compositionFault, hk]
    exact if_neg (fun hlt => hs ⟨hk, hlt⟩)
  | verify => simp only [State.compositionFault, hk]

/-! ## The table (R76, R84) -/

theorem State.compose_lanes_length : (s.compose h job).lanes.length = (s.head h).tool.laneCount := by
  unfold State.compose
  split <;> simp

theorem State.compose_stationCount :
    (s.compose h job).stationCount =
      if job.kind = .press then some (stationCount (s.site job.site) job.settings.stationPitch) else none := by
  cases hk : job.kind <;> simp [State.compose, hk]

theorem State.compose_verifyThreshold_isSome :
    (s.compose h job).verifyThreshold.isSome ↔ job.kind = .verify := by
  cases hk : job.kind <;> simp [State.compose, hk]

/-- A lane has a live pin. -/
theorem State.lanePins_jobPins_ne_nil (lane : Nat) :
    (lanePins lane ((s.jobPins job).map Prod.snd)).isEmpty = false ↔
      ∃ k, inSpan ((s.site job.site).firstPin, (s.site job.site).pinCount) k ∧ (s.pin k).live = true ∧
        (s.pin k).lane = lane := by
  rw [State.jobPins, State.livePins_map_snd, lanePins, List.isEmpty_eq_false_iff_exists_mem]
  simp only [List.mem_filter, List.mem_map, List.mem_range, decide_eq_true_eq, inSpan]
  constructor
  · rintro ⟨_, ⟨⟨i, hi, rfl⟩, hl⟩, hlane⟩
    exact ⟨_, ⟨by omega, by omega⟩, hl, hlane⟩
  · rintro ⟨k, ⟨hlow, hhigh⟩, hl, hlane⟩
    exact ⟨s.pin k, ⟨⟨k - (s.site job.site).firstPin, by omega, congrArg s.pin (by omega)⟩, hl⟩, hlane⟩

theorem State.pressLane_used (settings : Snapshot) (stations : Nat) (pins : List Pin) (lane : Nat) :
    (s.pressLane settings stations pins lane).used = !(lanePins lane pins).isEmpty := by
  unfold State.pressLane
  cases (lanePins lane pins).isEmpty <;> rfl

theorem State.pressLane_bounds_length (settings : Snapshot) (stations : Nat) (pins : List Pin) (lane : Nat) :
    (s.pressLane settings stations pins lane).bounds.map List.length =
      if (s.pressLane settings stations pins lane).used = true then some stations else none := by
  unfold State.pressLane
  cases (lanePins lane pins).isEmpty <;> simp

/-- A lane of the table, by the kind of the job. -/
theorem State.compose_lane {lane : Nat} {e : EnvelopeLane} (he : (s.compose h job).lanes[lane]? = some e) :
    e.used = !(lanePins lane ((s.jobPins job).map Prod.snd)).isEmpty ∧
      e.bounds.map List.length =
        if e.used = true ∧ job.kind = .press then
          some (stationCount (s.site job.site) job.settings.stationPitch)
        else none := by
  cases hk : job.kind with
  | press =>
    simp only [State.compose, hk, List.getElem?_map, Option.map_eq_some_iff, List.getElem?_eq_some_iff,
      List.getElem_range] at he
    obtain ⟨_, ⟨_, rfl⟩, rfl⟩ := he
    refine ⟨s.pressLane_used _ _ _ _, ?_⟩
    rw [State.pressLane_bounds_length]
    simp
  | verify =>
    simp only [State.compose, hk, List.getElem?_map, Option.map_eq_some_iff, List.getElem?_eq_some_iff,
      List.getElem_range] at he
    obtain ⟨_, ⟨_, rfl⟩, rfl⟩ := he
    simp [verifyLane]

/-! ## The completion (R89, R90) -/

theorem exec_compositionCompletion (h : Head) (s : State) :
    exec (.compositionCompletion h) s = .next (s.completeComposition h) := by rfl

theorem State.completeComposition_elsewhere (he : engineState (s.head h).engine ≠ .composing) :
    s.completeComposition h = s := by
  unfold State.completeComposition
  split
  · next hc => exact absurd (congrArg engineState hc) he
  · rfl
  · rfl
  · rfl

theorem State.completeComposition_fails {f : CompositionFailure} (he : (s.head h).engine = .composing job)
    (hf : s.compositionFault h job = some f) :
    s.completeComposition h = (s.failComposition h job f).trySwap := by
  simp only [State.completeComposition, he, hf]

theorem State.completeComposition_arms (he : (s.head h).engine = .composing job)
    (hf : s.compositionFault h job = none) :
    s.completeComposition h =
      (s.setEngine h (.armed job (s.compose h job))).postHead h (armedNotice h job.site) := by
  simp only [State.completeComposition, he, hf]

/-- A composition that fails leaves the engine IDLE, the site and the claim as they were. -/
theorem State.failComposition_endsIdle (s : State) (h : Head) (job : Job) (f : CompositionFailure) :
    EndsIdle s h .untouched [armFailedNotice h job.site f] (s.failComposition h job f).trySwap ∧
      storeKept s (s.failComposition h job f).trySwap :=
  ((s.untouched_settles h).idled.2 _).endsIdle

end

/-- Settles O37: the first check that fails ends the composition, and one without a failure gives the table. -/
theorem compositionEnds : Obligations.CompositionEnds := by
  unfold Obligations.CompositionEnds
  intro s h
  refine ⟨fun he => ?_, ?_⟩
  · rw [exec_compositionCompletion, State.completeComposition_elsewhere he]
  · rintro job x stations lanes bad he rfl rfl rfl hbad
    have hbad' : ∀ k, bad k ↔
        inSpan ((s.site job.site).firstPin, (s.site job.site).pinCount) k ∧ (s.pin k).live = true ∧
          s.pinFails (s.head h).tool.laneCount k := hbad
    have hfails : ∀ f n, s.compositionFault h job = some f → armFailedNotice h job.site f = n →
        ∃ t : State, exec (.compositionCompletion h) s = .next t ∧ EndsIdle s h .untouched [n] t ∧ storeKept s t := by
      rintro f n hf rfl
      rw [exec_compositionCompletion, State.completeComposition_fails he hf]
      exact ⟨_, rfl, s.failComposition_endsIdle h job f⟩
    refine ⟨?_, ?_⟩
    · rintro n (⟨hk, hs, rfl⟩ | ⟨hs, k, hk, hlow, hn⟩)
      · exact hfails _ _ (State.compositionFault_stations hk hs) rfl
      · obtain ⟨hspan, hlive, hpin⟩ := (hbad' k).1 hk
        have hfault : s.compositionFault h job = some (s.pinFailure (s.head h).tool.laneCount k) := by
          rw [State.compositionFault_walk hs]
          exact State.walkPins_lowest hlive hpin _ _ hspan
            (fun m hm hspan' hlive' hpin' => hlow m hm ((hbad' m).2 ⟨hspan', hlive', hpin'⟩))
        refine hfails _ n hfault ?_
        rcases hn with ⟨hlane, rfl⟩ | ⟨hlane, rfl⟩
        · rw [State.pinFailure, if_pos hlane]
          rfl
        · rw [State.pinFailure, if_neg (Nat.not_le.2 hlane)]
          rfl
    · rintro hs hnone env rfl
      have hfault : s.compositionFault h job = none := by
        rw [State.compositionFault_walk hs]
        exact State.walkPins_none _ _ (fun m hspan hlive hpin => hnone m ((hbad' m).2 ⟨hspan, hlive, hpin⟩))
      refine ⟨?_, State.compose_lanes_length, State.compose_stationCount, State.compose_verifyThreshold_isSome,
        fun lane e he' => ?_⟩
      · rw [exec_compositionCompletion, State.completeComposition_arms he hfault]
        rfl
      · obtain ⟨hused, hbounds⟩ := State.compose_lane he'
        refine ⟨?_, hbounds⟩
        rw [hused, Bool.not_eq_true', State.lanePins_jobPins_ne_nil]

end Sys2Proof.Machine
end

section
/-! PROOF. ABORT, RESUME and HEAD_CLEAR (R91, R92, R135, R136, R144, R150). -/

namespace Sys2Proof.Machine

/-! ## What ends the work of a head reads and changes no frame in reception -/

section
variable (s : State) (p : Port) (h : Head) (job : Job) (env : Envelope) (ctx : Stroke)

theorem State.failComposition_beginTransaction (f : CompositionFailure) :
    (s.beginTransaction p).failComposition h job f = (s.failComposition h job f).beginTransaction p := by
  simp only [State.failComposition, State.toIdle_beginTransaction, State.postHead_beginTransaction]

theorem State.abortStroke_beginTransaction :
    (s.beginTransaction p).abortStroke h job env ctx = (s.abortStroke h job env ctx).beginTransaction p := by
  simp only [State.abortStroke, State.conclude, State.setEngine, State.verdictEvent_beginTransaction,
    State.modHead_beginTransaction]

theorem State.settleSite_beginTransaction (st : Option SiteState) :
    (s.beginTransaction p).settleSite h job st = (s.settleSite h job st).beginTransaction p := by
  cases st with
  | none => exact s.setSiteState_beginTransaction p job.site .claimed
  | some x => exact s.releaseSite_beginTransaction p h job.site x

theorem State.endStroke_beginTransaction (o : StrokeOutcome) (cleared : Bool) :
    (s.beginTransaction p).endStroke h job ctx o cleared = (s.endStroke h job ctx o cleared).beginTransaction p := by
  simp only [State.endStroke, State.beginTransaction_site, State.settleSite_beginTransaction,
    State.toIdle_beginTransaction, State.postHead_beginTransaction, State.trySwap_beginTransaction]

theorem State.releaseClaim_beginTransaction :
    (s.beginTransaction p).releaseClaim h = (s.releaseClaim h).beginTransaction p := by
  simp only [State.releaseClaim, State.beginTransaction_head, State.beginTransaction_site,
    State.releaseSite_beginTransaction]
  split <;> rfl

theorem State.clearEngine_beginTransaction :
    (s.beginTransaction p).clearEngine h = (s.clearEngine h).beginTransaction p := by
  simp only [State.clearEngine, State.beginTransaction_head, State.releaseClaim_beginTransaction,
    State.failComposition_beginTransaction, State.toIdle_beginTransaction, State.trySwap_beginTransaction,
    State.verdictEvent_beginTransaction, State.endStroke_beginTransaction]
  cases (s.head h).engine with
  | idle => rfl
  | composing job => rfl
  | armed job env => rfl
  | stroke ph job env ctx => cases ph <;> rfl

end

/-! ## The three requests, by their bodies -/

section
variable {s t : State} {h : Head} {p : Port} {field : Option Byte} {status : Status} {payload : List Byte}
  (hf : portFree (s.port p)) (hr : reaches p field h)
include hf hr

theorem exec_abort_taken (hb : abortBody h s = (t, status, payload)) :
    exec (.abort p field) s = .next (t.withReply p 0x35 status payload) := by
  have hbody : abortBody h (s.beginTransaction p) = (t.beginTransaction p, status, payload) := by
    have hcommutes : abortBody h (s.beginTransaction p) =
        ((abortBody h s).1.beginTransaction p, (abortBody h s).2) := by
      simp only [abortBody, State.beginTransaction_head, State.failComposition_beginTransaction,
        State.toIdle_beginTransaction, State.trySwap_beginTransaction, State.abortStroke_beginTransaction]
      cases (s.head h).engine with
      | idle => rfl
      | composing job => rfl
      | armed job env => rfl
      | stroke ph job env ctx => cases ph <;> rfl
    rw [hcommutes, hb]
  exact congrArg Host.Outcome.next (receive_named_eq_withReply (.abort p field) abortBody s t status payload hf hr rfl
    (codeListed_of_reaches hr rfl rfl) rfl hbody)

theorem exec_resume_taken (hb : resumeBody h s = (t, status, payload)) :
    exec (.resume p field) s = .next (t.withReply p 0x36 status payload) := by
  have hbody : resumeBody h (s.beginTransaction p) = (t.beginTransaction p, status, payload) := by
    have hcommutes : resumeBody h (s.beginTransaction p) =
        ((resumeBody h s).1.beginTransaction p, (resumeBody h s).2) := by
      simp only [resumeBody, State.beginTransaction_head, State.returnFromHeld_beginTransaction]
      cases (s.head h).engine with
      | idle => rfl
      | composing job => rfl
      | armed job env => rfl
      | stroke ph job env ctx =>
        cases ph with
        | held ret => cases interlockActive (s.head h) <;> rfl
        | _ => rfl
    rw [hcommutes, hb]
  exact congrArg Host.Outcome.next (receive_named_eq_withReply (.resume p field) resumeBody s t status payload hf hr rfl
    (codeListed_of_reaches hr rfl rfl) rfl hbody)

/-- HEAD_CLEAR ends what the engine does, then removes the wait and releases STOP. -/
theorem exec_headClear_taken (ht : s.clearEngine h = t) :
    exec (.headClear p field) s = .next
      ((t.modHead h (fun u => { u with waiting := none, lines := { u.lines with stop := false } })).withReply p 0x37 .ok
        []) := by
  have hclear : ∀ u : State, (u.setWaiting h none).releaseStop h =
      u.modHead h (fun u => { u with waiting := none, lines := { u.lines with stop := false } }) := fun u => by
    cases h <;> rfl
  have hbody : headClearBody h (s.beginTransaction p) =
      ((t.modHead h (fun u => { u with waiting := none, lines := { u.lines with stop := false } })).beginTransaction p,
        .ok, []) := by
    rw [headClearBody, State.clearEngine_beginTransaction, hclear, State.modHead_beginTransaction, ht]
  exact congrArg Host.Outcome.next (receive_named_eq_withReply (.headClear p field) headClearBody s _ _ _ hf hr rfl
    (codeListed_of_reaches hr rfl rfl) rfl hbody)

end

/-! ## ABORT by the engine's state (R91, R136) -/

section
variable {s : State} {h : Head} {job : Job} {env : Envelope} {ctx : Stroke}

theorem abortBody_refused
    (he : engineState (s.head h).engine = .idle ∨ engineState (s.head h).engine = .retract ∨
      engineState (s.head h).engine = .faulted) : abortBody h s = (s, .refusedState, []) := by
  cases hk : (s.head h).engine with
  | idle => simp only [abortBody, hk]
  | composing job => simp [hk, engineState] at he
  | armed job env => simp [hk, engineState] at he
  | stroke ph job env ctx =>
    rw [hk] at he
    cases ph <;> simp [engineState, phaseState] at he <;> simp only [abortBody, hk, phaseLive]

theorem abortBody_composing (he : (s.head h).engine = .composing job) :
    abortBody h s = ((s.failComposition h job abandoned).trySwap, .ok, []) := by
  simp only [abortBody, he]

theorem abortBody_armed (he : (s.head h).engine = .armed job env) :
    abortBody h s = ((s.toIdle h).trySwap, .ok, []) := by
  simp only [abortBody, he]

theorem abortBody_live {held : Bool} {l : Live} (he : (s.head h).engine = .stroke (phaseOf held l) job env ctx) :
    abortBody h s = (s.abortStroke h job env ctx, .ok, []) := by
  simp only [abortBody, he, phaseLive_phaseOf]

/-! ## RESUME by the engine's state (R150) -/

theorem resumeBody_refused (he : engineState (s.head h).engine ≠ .held) :
    resumeBody h s = (s, .refusedState, []) := by
  cases hk : (s.head h).engine with
  | idle => simp only [resumeBody, hk]
  | composing job => simp only [resumeBody, hk]
  | armed job env => simp only [resumeBody, hk]
  | stroke ph job env ctx =>
    cases ph with
    | held ret => exact absurd (congrArg engineState hk) he
    | _ => simp only [resumeBody, hk]

variable {l : Live}

theorem resumeBody_interlock (he : (s.head h).engine = .stroke (.held l) job env ctx)
    (hi : interlockActive (s.head h) = true) : resumeBody h s = (s, .interlock, []) := by
  simp only [resumeBody, he, hi, if_true]

theorem resumeBody_returns (he : (s.head h).engine = .stroke (.held l) job env ctx)
    (hi : interlockActive (s.head h) = false) : resumeBody h s = (s.returnFromHeld h l job env ctx, .ok, []) := by
  simp [resumeBody, he, hi]

end

/-- Settles O50: each request goes by the engine's state, and a head field that names no head is refused. -/
theorem abortAndResume : Obligations.AbortAndResume := by
  unfold Obligations.AbortAndResume
  refine ⟨fun s h p field hf hr => ⟨fun he => ?_, fun job he => ?_, fun he => ?_, fun held l job env ctx he => ?_,
    fun he => ?_, fun l job env ctx he => ⟨fun hi => ?_, fun hi => ?_⟩⟩, fun s b hf hb => ⟨?_, ?_⟩⟩
  · exact exec_abort_taken hf hr (abortBody_refused he)
  · obtain ⟨hends, hkept⟩ := s.failComposition_endsIdle h job abandoned
    exact ⟨_, exec_abort_taken hf hr (abortBody_composing he), hkept, hends⟩
  · obtain ⟨job, env, he⟩ := engineState_eq_armed he
    obtain ⟨hends, hkept⟩ := (s.untouched_settles h).idled.1.endsIdle
    exact ⟨_, exec_abort_taken hf hr (abortBody_armed he), hkept, hends⟩
  · exact ⟨_, exec_abort_taken hf hr (abortBody_live he), s.conclude_concludes h job env ctx .aborted⟩
  · exact exec_resume_taken hf hr (resumeBody_refused he)
  · exact exec_resume_taken hf hr (resumeBody_interlock he hi)
  · exact exec_resume_taken hf hr (resumeBody_returns he hi)
  · exact congrArg Host.Outcome.next (receive_named_range (.abort .cell (some b)) _ s hf hb rfl rfl rfl)
  · exact congrArg Host.Outcome.next (receive_named_range (.resume .cell (some b)) _ s hf hb rfl rfl rfl)

/-! ## HEAD_CLEAR by the engine's state (R22, R57, R92, R135) -/

section
variable {s : State} {h : Head} {job : Job} {env : Envelope} {ctx : Stroke}

theorem State.releaseClaim_none (hc : (s.head h).claim = none) : s.releaseClaim h = s := by
  simp only [State.releaseClaim, hc]

theorem State.releaseClaim_some {c : Claim} {prior : PriorState} (hc : (s.head h).claim = some c)
    (hp : (s.site c.site).prior = some prior) : s.releaseClaim h = s.releaseSite h c.site (priorSite prior) := by
  simp only [State.releaseClaim, hc, returnState, hp]
  rfl

theorem State.clearEngine_idle (he : (s.head h).engine = .idle) : s.clearEngine h = s.releaseClaim h := by
  simp only [State.clearEngine, he]

theorem State.clearEngine_composing (he : (s.head h).engine = .composing job) :
    s.clearEngine h = ((s.releaseClaim h).failComposition h job abandoned).trySwap := by
  simp only [State.clearEngine, he]

theorem State.clearEngine_armed (he : (s.head h).engine = .armed job env) :
    s.clearEngine h = ((s.releaseClaim h).toIdle h).trySwap := by
  simp only [State.clearEngine, he]

theorem State.clearEngine_live {held : Bool} {l : Live}
    (he : (s.head h).engine = .stroke (phaseOf held l) job env ctx) :
    s.clearEngine h =
      (s.verdictEvent h job env ctx .aborted false).endStroke h job { ctx with outcome := some .aborted } .aborted
        true := by
  simp only [State.clearEngine, he, phaseLive_phaseOf]

theorem State.clearEngine_done {ph : Phase} (he : (s.head h).engine = .stroke ph job env ctx)
    (hph : ph = .retract ∨ ph = .faulted) : s.clearEngine h = s.endStroke h job ctx (recordedOutcome ctx) true := by
  rcases hph with rfl | rfl <;> simp only [State.clearEngine, he, phaseLive]

end

/-! ## The verdict event of a stroke that HEAD_CLEAR ends (R127) -/

section
variable (s : State) (h : Head) (job : Job) (env : Envelope) (ctx : Stroke) (o : StrokeOutcome) (isFault : Bool)

theorem State.verdictEvent_head (k : Head) : (s.verdictEvent h job env ctx o isFault).head k = s.head k := by
  rw [State.verdictEvent_frame]
  cases k <;> rfl

theorem State.verdictEvent_site (i : Nat) : (s.verdictEvent h job env ctx o isFault).site i = s.site i := by
  rw [State.verdictEvent_frame]
  rfl

/-- A verdict event leaves the rest of the part as it was. -/
theorem State.verdictEvent_kept : StrokeKept s (s.verdictEvent h job env ctx o isFault) h := by
  refine ⟨?_, s.verdictEvent_head h job env ctx o isFault _, fun p => ?_⟩
  · have ha := s.verdictEvent_head h job env ctx o isFault .a
    have hb := s.verdictEvent_head h job env ctx o isFault .b
    have hf := s.verdictEvent_frame h job env ctx o isFault
    generalize s.verdictEvent h job env ctx o isFault = t at ha hb hf ⊢
    have ha' : t.headA = s.headA := ha
    have hb' : t.headB = s.headB := hb
    rw [ha', hb']
    exact hf
  · rw [State.verdictEvent_port]
    exact s.overtakeTransfer_portKept _ _ _

/-- What a verdict event that is no fault posts. -/
theorem State.verdictEvent_told :
    VerdictTold s h o [verdictOf h job o] [] (s.verdictEvent h job env ctx o false) := by
  have hp := s.verdictEvent_port h job env ctx o false
  refine ⟨?_, ?_, ?_⟩
  · have hcell := hp .cell
    simp only [State.port] at hcell
    simp [hcell, verdictNotice, verdictOf]
  · rw [hp]
    simp [verdictNotice, verdictOf]
  · rw [hp]
    cases h <;> simp [headPort, otherHead]

end

/-- Settles O51: the engine, the stroke, the site and the claim end by the engine's state. -/
theorem headCleared : Obligations.HeadCleared := by
  unfold Obligations.HeadCleared
  refine ⟨?_, fun s b hf hb =>
    congrArg Host.Outcome.next (receive_named_range (.headClear .cell (some b)) _ s hf hb rfl rfl rfl)⟩
  rintro s h p field clear hf hr rfl
  have hexec : ∀ {t}, s.clearEngine h = t → _ := fun ht => exec_headClear_taken hf hr ht
  refine ⟨fun he hc => hexec ?_, fun c prior hc hp => ⟨fun he => ?_, fun job he => ?_, fun he => ?_⟩, ?_, ?_⟩
  · rw [State.clearEngine_idle he, State.releaseClaim_none hc]
  · obtain ⟨hframe, hown, hother, hsites⟩ := s.releaseSite_settles h c.site (priorSite prior)
    exact ⟨_, hexec ((State.clearEngine_idle he).trans (State.releaseClaim_some hc hp)), hframe, hown, hother, hsites⟩
  · have ht := State.clearEngine_composing he
    rw [State.releaseClaim_some hc hp] at ht
    obtain ⟨hends, hkept⟩ := ((s.releaseSite_settles h c.site (priorSite prior)).idled.2
      (armFailedNotice h job.site abandoned)).endsIdle
    exact ⟨_, hexec ht, hkept, hends⟩
  · obtain ⟨job, env, he⟩ := engineState_eq_armed he
    have ht := State.clearEngine_armed he
    rw [State.releaseClaim_some hc hp] at ht
    obtain ⟨hends, hkept⟩ := (s.releaseSite_settles h c.site (priorSite prior)).idled.1.endsIdle
    exact ⟨_, hexec ht, hkept, hends⟩
  · intro held l job env ctx prior fate he hp hfate
    have hback : returnState ((s.verdictEvent h job env ctx .aborted false).site job.site) = priorSite prior := by
      rw [State.verdictEvent_site, returnState, hp]
      rfl
    obtain ⟨hends, hkept⟩ := State.endStroke_endsIdle (s.verdictEvent h job env ctx .aborted false) h job
      { ctx with outcome := some .aborted } .aborted true fate (hback ▸ hfate)
    exact ⟨_, _, hexec (State.clearEngine_live he), s.verdictEvent_kept h job env ctx _ _,
      s.verdictEvent_head h job env ctx _ _ h, s.verdictEvent_left h job env ctx _ _, s.verdictEvent_told h job env ctx _,
      s.verdictEvent_transfer h job env ctx _ _, hkept, hends⟩
  · intro ph job env ctx o prior fate he hph ho hp hfate
    have hback : returnState (s.site job.site) = priorSite prior := by
      rw [returnState, hp]
      rfl
    have hout : recordedOutcome ctx = o := by rw [recordedOutcome, ho]; rfl
    obtain ⟨hends, hkept⟩ := s.endStroke_endsIdle h job ctx o true fate (hback ▸ hfate)
    exact ⟨_, hexec ((State.clearEngine_done he hph).trans (by rw [hout])), hkept, hends⟩

end Sys2Proof.Machine
end

section
/-! PROOF. RESTART (R21, R35, R58, R75, R139, R182). -/

namespace Sys2Proof.Machine

/-! ## The verdict event of a stroke that RESTART ends (R127, R139) -/

/-- The Record Store and the watch slots are the same. -/
abbrev storeSame (s t : State) : Prop :=
  t.records = s.records ∧ t.verdicts = s.verdicts ∧ t.slot0 = s.slot0 ∧ t.slot1 = s.slot1

/-- What a verdict event leaves it reads off the map, the Record Store and the watch slots alone. -/
theorem VerdictLeft.congr {s s' t t' : State} {h : Head} {job : Job} {env : Envelope} {ctx : Stroke} {o : StrokeOutcome}
    (hl : VerdictLeft s h job env ctx o t) (hgen : s'.map.generation = s.map.generation)
    (hspan : ∀ i, pinSpan (s'.site i) = pinSpan (s.site i)) (hpins : s'.map.pins = s.map.pins)
    (hbefore : storeSame s s') (hafter : storeSame t t') : VerdictLeft s' h job env ctx o t' := by
  obtain ⟨hr, hv, h0, h1⟩ := hbefore
  obtain ⟨hr', hv', h0', h1'⟩ := hafter
  have hrecord : ∀ i, s'.record i = s.record i := fun i => by rw [State.record, hr]; rfl
  have hrecord' : ∀ i, t'.record i = t.record i := fun i => by rw [State.record, hr']; rfl
  have hverdict : ∀ k, s'.verdict k = s.verdict k := fun k => by rw [State.verdict, hv]; rfl
  have hverdict' : ∀ k, t'.verdict k = t.verdict k := fun k => by rw [State.verdict, hv']; rfl
  have hpin : ∀ k, s'.pin k = s.pin k := fun k => by rw [State.pin, hpins]; rfl
  refine ⟨?_, ?_, ?_, ?_, ?_, ?_⟩
  · rw [hrecord', hgen]
    exact hl.record
  · intro i hi
    rw [hrecord, hrecord']
    exact hl.otherRecords i hi
  · intro k hk
    rw [hverdict', hpin, hverdict]
    exact hl.pins k (hspan _ ▸ hk)
  · intro k hk
    rw [hverdict', hverdict]
    exact hl.otherPins k (hspan _ ▸ hk)
  · rw [h0', h0]
    exact hl.slot0
  · rw [h1', h1]
    exact hl.slot1

theorem RestartVerdict.congr {s s' t t' : State} {h : Head} (hv : RestartVerdict s h t) (hhead : s'.head h = s.head h)
    (hgen : s'.map.generation = s.map.generation) (hspan : ∀ i, pinSpan (s'.site i) = pinSpan (s.site i))
    (hpins : s'.map.pins = s.map.pins) (hbefore : storeSame s s') (hafter : storeSame t t') :
    RestartVerdict s' h t' := by
  unfold RestartVerdict
  rw [hhead]
  rcases hv with ⟨ph, job, env, ctx, he, hph, hl⟩ | ⟨hnone, hr, hv, h0, h1⟩
  · exact .inl ⟨ph, job, env, ctx, he, hph, hl.congr hgen hspan hpins hbefore hafter⟩
  · obtain ⟨hr0, hv0, h00, h10⟩ := hbefore
    obtain ⟨hr1, hv1, h01, h11⟩ := hafter
    exact .inr ⟨hnone, by rw [hr1, hr, hr0], by rw [hv1, hv, hv0], by rw [h01, h0, h00], by rw [h11, h1, h10]⟩

section
variable (s : State) (h : Head)

theorem State.restartVerdict_verdict : RestartVerdict s h (s.restartVerdict h) := by
  unfold State.restartVerdict
  cases he : (s.head h).engine with
  | idle => exact .inr ⟨fun ph job env ctx h' => (nomatch he.symm.trans h'), rfl, rfl, rfl, rfl⟩
  | composing job => exact .inr ⟨fun ph job env ctx h' => (nomatch he.symm.trans h'), rfl, rfl, rfl, rfl⟩
  | armed job env => exact .inr ⟨fun ph job env ctx h' => (nomatch he.symm.trans h'), rfl, rfl, rfl, rfl⟩
  | stroke ph job env ctx =>
    dsimp only
    cases hph : phaseLive ph with
    | none =>
      refine .inr ⟨fun ph' job' env' ctx' h' => ?_, rfl, rfl, rfl, rfl⟩
      cases he.symm.trans h'
      exact hph
    | some x => exact .inl ⟨ph, job, env, ctx, he, by rw [hph]; rfl, s.verdictEvent_left h job env ctx .aborted false⟩

/-- The verdict event, where there is one, writes the store, the slots and the ports alone, and clocks nothing out. -/
theorem State.restartVerdict_frame :
    s.restartVerdict h =
      { s with
          records := (s.restartVerdict h).records, verdicts := (s.restartVerdict h).verdicts,
          slot0 := (s.restartVerdict h).slot0, slot1 := (s.restartVerdict h).slot1, cell := (s.restartVerdict h).cell,
          portA := (s.restartVerdict h).portA, portB := (s.restartVerdict h).portB } ∧
      ∀ p, ((s.restartVerdict h).port p).wire = (s.port p).wire := by
  unfold State.restartVerdict
  split
  · next ph job env ctx he =>
    split
    · refine ⟨s.verdictEvent_frame h job env ctx .aborted false, fun p => ?_⟩
      rw [State.verdictEvent_port]
      cases p <;> rfl
    · exact ⟨rfl, fun _ => rfl⟩
  all_goals exact ⟨rfl, fun _ => rfl⟩

end

/-! ## The end of a head's work (R21, R58, R139) -/

/-- What RESTART makes of one head's engine, stroke, site, claim and wait. -/
structure WorkEnded (s : State) (h : Head) (t : State) : Prop where
  frame : t = { s with
    map := { s.map with sites := t.map.sites }, headA := t.headA, headB := t.headB, records := t.records,
    verdicts := t.verdicts, slot0 := t.slot0, slot1 := t.slot1, cell := t.cell, portA := t.portA, portB := t.portB }
  own : t.head h =
    { s.head h with
        claim := none, waiting := none, engine := .idle, link := { (s.head h).link with silence := none } }
  other : t.head (otherHead h) = s.head (otherHead h)
  claimed : ∀ c, (s.head h).claim = some c →
    t.site c.site =
      { s.site c.site with state := restartSite (s.head h) (s.site c.site), holder := none, prior := none }
  unclaimed : ∀ i, (∀ c, (s.head h).claim = some c → c.site ≠ i) → t.site i = s.site i
  store : storeSame (s.restartVerdict h) t
  wire : ∀ p, (t.port p).wire = (s.port p).wire

theorem State.restartHead_workEnded (s : State) (h : Head) : WorkEnded s h (s.restartHead h) := by
  obtain ⟨hframe, hwire⟩ := s.restartVerdict_frame h
  unfold State.restartHead
  generalize hu : s.restartVerdict h = u at hframe hwire
  have hhead : ∀ k, u.head k = s.head k := fun k => by rw [hframe]; cases k <;> rfl
  have hsite : ∀ i, u.site i = s.site i := fun i => by rw [hframe]; rfl
  have hport : ∀ v : State, (v.cell = u.cell ∧ v.portA = u.portA ∧ v.portB = u.portB) →
      ∀ p, (v.port p).wire = (s.port p).wire := by
    rintro v ⟨hc, ha, hb⟩ p
    rw [← hwire]
    cases p <;> simp only [State.port, hc, ha, hb]
  unfold State.restartClaim
  cases hc : (u.head h).claim with
  | none =>
    have hclaim : (s.head h).claim = none := hhead h ▸ hc
    refine ⟨?_, ?_, ?_, fun c hc' => (nomatch hclaim.symm.trans hc'), fun i _ => ?_, ?_, hport _ ?_⟩
    · rw [hframe]
      cases h <;> rfl
    · rw [← hhead, State.toIdle_head, State.setWaiting_head]
      simp [hc]
    · rw [← hhead]
      cases h <;> rfl
    · rw [State.toIdle_site, State.setWaiting_site, hsite]
    · rw [hu]
      cases h <;> exact ⟨rfl, rfl, rfl, rfl⟩
    · cases h <;> exact ⟨rfl, rfl, rfl⟩
  | some c =>
    have hclaim : (s.head h).claim = some c := hhead h ▸ hc
    dsimp only
    have hsites : ∀ i,
        ((((u.resolveSite c.site (restartSite (u.head h) (u.site c.site))).setClaim h none).setWaiting h none).toIdle
          h).site i =
          if i = c.site then
            { s.site c.site with state := restartSite (s.head h) (s.site c.site), holder := none, prior := none }
          else s.site i := fun i => by
      rw [State.toIdle_site, State.setWaiting_site, State.setClaim_site, State.resolveSite, State.setSite_site, hhead,
        hsite, hsite]
    refine ⟨?_, ?_, ?_, fun c' hc' => ?_, fun i hi => ?_, ?_, hport _ ?_⟩
    · rw [hframe]
      cases h <;> rfl
    · rw [← hhead]
      cases h <;> rfl
    · rw [← hhead]
      cases h <;> rfl
    · obtain rfl := Option.some.inj (hclaim.symm.trans hc')
      rw [hsites, if_pos rfl]
    · rw [hsites, if_neg (fun h' => hi c hclaim h'.symm)]
    · rw [hu]
      cases h <;> exact ⟨rfl, rfl, rfl, rfl⟩
    · cases h <;> exact ⟨rfl, rfl, rfl⟩

/-- No field of a site that names its pins changes. -/
theorem WorkEnded.span {s t : State} {h : Head} (ht : WorkEnded s h t) (i : Nat) :
    pinSpan (t.site i) = pinSpan (s.site i) := by
  by_cases hi : ∃ c, (s.head h).claim = some c ∧ c.site = i
  · obtain ⟨c, hc, rfl⟩ := hi
    rw [ht.claimed c hc]
    rfl
  · rw [ht.unclaimed i (fun c hc hi' => hi ⟨c, hc, hi'⟩)]

/-! ## The state a held site goes to (R21, R139) -/

theorem restartSite_no_stroke {u : HeadUnit} (x : Site) (he : strokeRuns u.engine = false) :
    restartSite u x = returnState x := by
  unfold restartSite
  cases hk : u.engine with
  | stroke ph job env ctx => simp [hk, strokeRuns] at he
  | _ => rfl

theorem siteAfter_eq_fate {job : Job} {ctx : Stroke} {o : StrokeOutcome} {cleared : Bool} {back : SiteState}
    {fate : SiteFate} (hf : StrokeFate job.site job.kind ctx.contact.isSome cleared back o fate) :
    (siteAfter job.kind o ctx.contact.isSome cleared back).getD .claimed = fate.state :=
  (State.reset.settleSite_settles .a job ctx o cleared back fate hf).2

theorem restartSite_stroke {u : HeadUnit} {x : Site} {ph : Phase} {job : Job} {env : Envelope} {ctx : Stroke}
    {o : StrokeOutcome} {st : SiteState} (he : u.engine = .stroke ph job env ctx)
    (ho : (phaseLive ph).isSome ∧ o = .aborted ∨ phaseLive ph = none ∧ ctx.outcome = some o)
    (hf : StrokeFate job.site job.kind ctx.contact.isSome true (returnState x) o (.released job.site st)) :
    restartSite u x = st := by
  have hfate : (siteAfter job.kind o ctx.contact.isSome true (returnState x)).getD .claimed = st := siteAfter_eq_fate hf
  rcases ho with ⟨hph, rfl⟩ | ⟨hph, hout⟩
  · obtain ⟨⟨held, l⟩, hph⟩ := Option.isSome_iff_exists.1 hph
    simp only [restartSite, he, hph, hfate]
  · simp only [restartSite, he, hph, recordedOutcome, hout, Option.getD_some, hfate]

/-! ## The settings, the lines, the ports and the bank (R35, R75, R182) -/

/-- A head at RESTART, once its work has ended. -/
def restartedUnit (keep : Bool) (u : HeadUnit) : HeadUnit :=
  { u with
      settings := if keep then u.settings else Settings.default,
      lines := { u.lines with stop := true, override := .engine } }

/-- The library at RESTART: a pending swap takes place. -/
def restartedLibrary (l : Library) : Library :=
  if l.swapPending then { l with active := otherBank l.active, generation := l.generation + 1, swapPending := false }
  else l

/-- The notices that a port holds after RESTART. -/
def restartedItems (l : Library) : List Notice := if l.swapPending then [swapDone (l.generation + 1)] else []

/-- A port after RESTART, with the transaction in progress on it. -/
def restartedPort (l : Library) (reception : Option Reception) (u : PortUnit) : PortUnit :=
  { reply := none, transfer := none, discarded := false, reception := reception,
    queue := { items := restartedItems l, overrun := false }, wire := u.wire }

theorem State.restartWork_eq (s : State) :
    s.restartWork =
      { (s.restartHead .a).restartHead .b with
          headA := restartedUnit ((s.restartHead .a).restartHead .b).keep ((s.restartHead .a).restartHead .b).headA,
          headB := restartedUnit ((s.restartHead .a).restartHead .b).keep ((s.restartHead .a).restartHead .b).headB,
          cell := restartPort none ((s.restartHead .a).restartHead .b).cell,
          portA := restartPort (s.portA.reception.map lapse) ((s.restartHead .a).restartHead .b).portA,
          portB := restartPort (s.portB.reception.map lapse) ((s.restartHead .a).restartHead .b).portB } := by
  unfold State.restartWork
  generalize (s.restartHead .a).restartHead .b = t
  unfold State.restartSettings restartedUnit
  cases hk : t.keep <;> simp [State.modHead, State.modPort, State.assertStop, State.modLines, hk]

/-- RESTART, from the state in which the work of both heads has ended. -/
theorem State.restarted_eq {s t : State} (ht : (s.restartHead .a).restartHead .b = t) (ha : t.headA.engine = .idle)
    (hb : t.headB.engine = .idle) :
    s.restarted =
      { t with
          library := restartedLibrary t.library, headA := restartedUnit t.keep t.headA,
          headB := restartedUnit t.keep t.headB, cell := restartedPort t.library none t.cell,
          portA := restartedPort t.library (s.portA.reception.map lapse) t.portA,
          portB := restartedPort t.library (s.portB.reception.map lapse) t.portB } := by
  have hidle : s.restartWork.bothIdle = true := by
    rw [State.restartWork_eq, ht]
    simp [State.bothIdle, restartedUnit, ha, hb, engineIdle]
  unfold State.restarted State.trySwap
  rw [hidle, Bool.and_true, State.restartWork_eq, ht]
  cases hp : t.library.swapPending with
  | true =>
    simp only [if_true, restartedLibrary, restartedPort, restartedItems, hp]
    rfl
  | false =>
    simp only [if_false, restartedLibrary, restartedPort, restartedItems, hp, Bool.false_eq_true]
    rfl

/-! ## A transaction that RESTART has dropped (R182) -/

theorem lapse_eq (x : Reception) : lapse x = .lapsed (readsOn x) := by
  cases x with
  | bytes got => cases hg : got.head? <;> simp [lapse, readsOn, hg, readByte, beq_eq_decide]
  | lapsed read => rfl

/-- Bytes of a transaction that RESTART has dropped clock out 00 where it reads on, and end it where the master does. -/
theorem transact_restarted {s : State} {p : Port} {read : Bool} (ended : Bool) (bytes : List Byte)
    (hx : (s.port p).reception = some (.lapsed read)) :
    transact p ended bytes s = .next (s.modPort p (fun u =>
      { u with
          wire := u.wire ++ if read then List.replicate bytes.length 0x00 else [],
          reception := if ended then none else u.reception })) := by
  rw [transact_lapsed p ended read bytes s hx]
  refine congrArg Host.Outcome.next (State.modPort_congr ?_)
  unfold takeNothing
  cases read <;> cases ended <;> simp [hx]

theorem exec_unknown (p : Port) (bytes : List Byte) (s : State) :
    exec (.unknown p bytes) s = transact p false bytes s := by rfl

theorem exec_incompleteFrame (p : Port) (bytes : List Byte) (s : State) :
    exec (.incompleteFrame p bytes) s = transact p true bytes s := by rfl

theorem exec_restart_cell (s : State) :
    exec (.restart .cell) s = .next (s.restarted.answer .cell 0x05 .ok (restartPayload s s.restarted)) := by rfl

/-! ## The work of both heads -/

/-- What RESTART makes of the engines, strokes, sites, claims and waits of both heads. -/
structure BothEnded (s t : State) : Prop where
  frame : t = { s with
    map := { s.map with sites := t.map.sites }, headA := t.headA, headB := t.headB, records := t.records,
    verdicts := t.verdicts, slot0 := t.slot0, slot1 := t.slot1, cell := t.cell, portA := t.portA, portB := t.portB }
  heads : ∀ h, t.head h =
    { s.head h with
        claim := none, waiting := none, engine := .idle, link := { (s.head h).link with silence := none } }
  claimed : ∀ h c, (s.head h).claim = some c →
    t.site c.site =
      { s.site c.site with state := restartSite (s.head h) (s.site c.site), holder := none, prior := none }
  unclaimed : ∀ i, (∀ h c, (s.head h).claim = some c → c.site ≠ i) → t.site i = s.site i
  verdicts : ∃ m, RestartVerdict s .a m ∧ m.map = s.map ∧ m.headB = s.headB ∧
    ∀ t', storeSame t t' → RestartVerdict m .b t'
  wire : ∀ p, (t.port p).wire = (s.port p).wire

/-- The verdict event of head B is that of the state in which head A has ended, which reads the same of the map. -/
theorem WorkEnded.verdicts {s u t t' : State} (hA : WorkEnded s .a u) (hB : WorkEnded u .b t) (ht : storeSame t t') :
    RestartVerdict (s.restartVerdict .a) .b t' := by
  obtain ⟨hframe, -⟩ := s.restartVerdict_frame .a
  obtain ⟨hr, hv, h0, h1⟩ := hA.store
  obtain ⟨hr', hv', h0', h1'⟩ := hB.store
  obtain ⟨hr'', hv'', h0'', h1''⟩ := ht
  refine (u.restartVerdict_verdict .b).congr ?_ ?_ (fun i => ?_) ?_ ⟨hr.symm, hv.symm, h0.symm, h1.symm⟩
    ⟨hr''.trans hr', hv''.trans hv', h0''.trans h0', h1''.trans h1'⟩
  · exact (congrArg State.headB hframe).trans hA.other.symm
  · rw [hframe, hA.frame]
  · rw [hA.span, hframe]
    rfl
  · rw [hframe, hA.frame]

theorem Arbited.bothEnded {s : State} (hs : Arbited s) : BothEnded s ((s.restartHead .a).restartHead .b) := by
  have hA := s.restartHead_workEnded .a
  generalize s.restartHead .a = u at hA ⊢
  have hB := u.restartHead_workEnded .b
  generalize u.restartHead .b = t at hB ⊢
  have hhead : u.head .b = s.head .b := hA.other
  obtain ⟨hframe, -⟩ := s.restartVerdict_frame .a
  have hsites : ∀ i, (∀ c, (s.head .b).claim = some c → c.site ≠ i) → t.site i = u.site i := by
    intro i hi
    exact hB.unclaimed i (hhead ▸ hi)
  refine ⟨?_, fun h => ?_, fun h c hc => ?_, fun i hi => ?_,
    ⟨s.restartVerdict .a, s.restartVerdict_verdict .a, by rw [hframe], by rw [hframe], fun t' => hA.verdicts hB⟩,
    fun p => (hB.wire p).trans (hA.wire p)⟩
  · have hframeB := hB.frame
    rw [hA.frame] at hframeB
    exact hframeB
  · cases h with
    | a => exact hB.other.trans hA.own
    | b => rw [hB.own, hhead]
  · cases h with
    | a => rw [hsites c.site (fun d hd => (hs.apart .a c d hc hd).1.symm), hA.claimed c hc]
    | b =>
      have hsite : u.site c.site = s.site c.site := hA.unclaimed c.site (fun d hd => (hs.apart .a d c hd hc).1)
      rw [hB.claimed c (hhead ▸ hc), hhead, hsite]
  · rw [hsites i (hi .b), hA.unclaimed i (hi .a)]

theorem restartedLibrary_settled (l : Library) : (restartedLibrary l).swapPending = false := by
  unfold restartedLibrary
  cases hp : l.swapPending <;> simp [hp]

theorem restartPayload_eq {s t : State} (hmode : t.map.mode = s.map.mode) (hgen : t.map.generation = s.map.generation)
    (hp : t.library.swapPending = false) :
    restartPayload s t =
      u8 (engineStateCode (engineState s.headA.engine)) ++ u8 (engineStateCode (engineState s.headB.engine)) ++
        [if s.map.mode = .active then 1 else 0] ++ le16 s.map.generation ++ le16 t.library.generation ++ [0] := by
  unfold restartPayload
  rw [hmode, hgen, hp]
  cases s.map.mode <;> rfl

theorem restartedPort_eq {l : Library} {x y : PortUnit} (reception : Option Reception) (hw : x.wire = y.wire) :
    restartedPort l (reception.map lapse) x =
      { reply := none, transfer := none, discarded := false,
        reception := reception.map (fun x => .lapsed (readsOn x)),
        queue := { items := restartedItems l, overrun := false }, wire := y.wire } := by
  rw [restartedPort, hw, funext lapse_eq]

/-- Settles O52, from the work of both heads and from what RESTART makes of the rest. -/
theorem restartEnds : Obligations.RestartEnds := by
  unfold Obligations.RestartEnds
  intro s hlaw
  have hs := (arbited_iff_arbiterLaw s).2 hlaw
  obtain ⟨hframe, hheads, hclaimed, hunclaimed, ⟨m, hma, hmap, hmhead, hmb⟩, hwire⟩ := hs.bothEnded
  have hidle : ∀ h, (((s.restartHead .a).restartHead .b).head h).engine = .idle := fun h => by rw [hheads]
  have hrestarted := State.restarted_eq (s := s) rfl (hidle .a) (hidle .b)
  generalize (s.restartHead .a).restartHead .b = t at hframe hheads hclaimed hunclaimed hmb hwire hrestarted
  have hlib : t.library = s.library := by rw [hframe]
  have hkeep : t.keep = s.keep := by rw [hframe]
  have hprior : ∀ h c, (s.head h).claim = some c → returnState (s.site c.site) = priorSite (priorOf c.kind) := by
    intro h c hc
    obtain ⟨-, -, hp, -⟩ := (hs.heads h).holds c hc
    rw [returnState, hp]
    rfl
  have hpayload := restartPayload_eq (s := s) (t := s.restarted) (by rw [hrestarted, hframe])
    (by rw [hrestarted, hframe]) (by rw [hrestarted]; exact restartedLibrary_settled _)
  refine ⟨_, m, exec_restart_cell s, ?_, fun h => ?_, hma, hmap, hmhead, hmb _ ?_, fun h c hc => ⟨fun he => ?_, ?_⟩,
    fun i hi => ?_, ?_, fun p => ?_, ?_⟩
  · rw [hrestarted, hframe]
    rfl
  · rw [hrestarted, hkeep]
    cases h with
    | a => exact congrArg (restartedUnit s.keep) (hheads .a)
    | b => exact congrArg (restartedUnit s.keep) (hheads .b)
  · rw [hrestarted]
    exact ⟨rfl, rfl, rfl, rfl⟩
  · rw [hrestarted, ← hprior h c hc, ← restartSite_no_stroke (s.site c.site) he]
    exact hclaimed h c hc
  · intro ph job env ctx o st he ho hf
    have hjob : c.site = job.site := by
      have hw := (hs.heads h).works job (by rw [he]; rfl)
      rw [Option.some.inj (hc.symm.trans hw)]
    rw [← hprior h c hc] at hf
    rw [hrestarted, ← restartSite_stroke he ho hf]
    exact hclaimed h c hc
  · rw [hrestarted]
    exact hunclaimed i hi
  · rw [hrestarted, hlib]
    rfl
  · rw [hpayload, hrestarted, hlib]
    cases p with
    | cell =>
      rw [← hwire .cell]
      rfl
    | headA => exact restartedPort_eq s.portA.reception (hwire .headA)
    | headB => exact restartedPort_eq s.portB.reception (hwire .headB)
  · rintro p x bytes rest hp hx rfl
    have hreception : ((s.restarted.answer .cell 0x05 .ok (restartPayload s s.restarted)).port p).reception =
        some (.lapsed (readsOn x)) := by
      rw [← lapse_eq, hrestarted]
      cases p with
      | cell => exact absurd rfl hp
      | headA => exact congrArg (Option.map lapse) hx
      | headB => exact congrArg (Option.map lapse) hx
    exact ⟨transact_restarted false bytes hreception, transact_restarted true bytes hreception⟩

end Sys2Proof.Machine
end

section
/-! PROOF. Frames as bytes: a request and a sample frame read back as written (12.1, 12.2, 12.5). -/

namespace Sys2Proof

/-! ## The request that a code and its fields spell (12.2) -/

theorem parseHead_toList (head : Option Byte) (g : Option Byte → Instr) : parseHead head.toList g = some (g head) := by
  cases head <;> rfl

theorem parseSite_bytes (site : Byte) (f : SiteFields) (g : Byte → SiteFields → Instr) :
    parseSite (site :: f.bytes) g = some (g site f) := by
  simp only [SiteFields.bytes, le16, le32, List.cons_append, List.nil_append, parseSite, ofLe16_le16, ofLe32_le32]

theorem parseWritePins_bytes (first : Half) (count : Byte) (entries : List PinEntry)
    (g : Half → Byte → List PinEntry → Instr) :
    parseWritePins (le16 first ++ [count] ++ entries.flatMap PinEntry.bytes) g = some (g first count entries) := by
  simp only [le16, List.cons_append, List.nil_append, parseWritePins, parsePins_bytes, ofLe16_le16, Option.map_some]

theorem parseWriteProfile_bytes (pinType holeClass count : Byte) (seatForce : Half) (points : List PointEntry)
    (g : Byte → Byte → Byte → Half → List PointEntry → Instr) :
    parseWriteProfile ([pinType, holeClass, count] ++ le16 seatForce ++ points.flatMap PointEntry.bytes) g =
      some (g pinType holeClass count seatForce points) := by
  simp only [le16, List.cons_append, List.nil_append, parseWriteProfile, parsePoints_bytes, ofLe16_le16,
    Option.map_some]

theorem parseSetTool_bytes (head laneCount toolCode : Byte) (lanes : List LaneEntry)
    (g : Byte → Byte → Byte → List LaneEntry → Instr) :
    parseSetTool ([head, laneCount, toolCode] ++ lanes.flatMap LaneEntry.bytes) g =
      some (g head laneCount toolCode lanes) := by
  simp only [List.cons_append, List.nil_append, parseSetTool, parseLanes_bytes, Option.map_some]

theorem parseSetHead_bytes (head setting : Byte) (value : Word) (g : Byte → Byte → Word → Instr) :
    parseSetHead ([head, setting] ++ le32 value) g = some (g head setting value) := by
  simp only [le32, List.cons_append, List.nil_append, parseSetHead, ofLe32_le32]

theorem parseReadPins_bytes (site : Byte) (first : Half) (count : Byte) (g : Byte → Half → Byte → Instr) :
    parseReadPins ([site] ++ le16 first ++ [count]) g = some (g site first count) := by
  simp only [le16, List.cons_append, List.nil_append, parseReadPins, ofLe16_le16]

theorem parseTwo_le16 (v : Half) (g : Half → Instr) :
    parseTwo (le16 v) (fun b0 b1 => g (ofLe16 b0 b1)) = some (g v) := by
  simp only [le16, parseTwo, ofLe16_le16]

/-- The code and the field bytes of a request spell it on its port. -/
theorem parseRequest_fieldBytes {i : Instr} {p : Port} (hp : requestPort i = some p) :
    parseRequest p (requestCode i) (fieldBytes i) = some i := by
  cases i
  case headStatus q head =>
    obtain rfl := Option.some.inj hp
    exact parseHead_toList head _
  case abort q head =>
    obtain rfl := Option.some.inj hp
    exact parseHead_toList head _
  case resume q head =>
    obtain rfl := Option.some.inj hp
    exact parseHead_toList head _
  case headClear q head =>
    obtain rfl := Option.some.inj hp
    exact parseHead_toList head _
  case writeSite q site f =>
    obtain rfl := Option.some.inj hp
    exact parseSite_bytes site f _
  case writePins q first count entries =>
    obtain rfl := Option.some.inj hp
    exact parseWritePins_bytes first count entries _
  case setKeepout q distance =>
    obtain rfl := Option.some.inj hp
    exact parseTwo_le16 distance _
  case writeProfile q pinType holeClass count seatForce points =>
    obtain rfl := Option.some.inj hp
    exact parseWriteProfile_bytes pinType holeClass count seatForce points _
  case setTool q head laneCount toolCode lanes =>
    obtain rfl := Option.some.inj hp
    exact parseSetTool_bytes head laneCount toolCode lanes _
  case setHead q head setting value =>
    obtain rfl := Option.some.inj hp
    exact parseSetHead_bytes head setting value _
  case readPins q site first count =>
    obtain rfl := Option.some.inj hp
    exact parseReadPins_bytes site first count _
  all_goals cases hp
  all_goals rfl

/-! ## The command frame (12.1) -/

/-- A whole frame whose length field is right spells its code and its fields. -/
theorem readTransaction_frame (code : Byte) (fields : List Byte) (hl : 4 + fields.length ≤ 256) :
    readTransaction ([writeByte] ++ le16 (BitVec.ofNat 16 (4 + fields.length)) ++ [code] ++ fields) =
      .frame code fields := by
  have hlength : (BitVec.ofNat 16 (4 + fields.length)).toNat = 4 + fields.length := by
    rw [BitVec.toNat_ofNat]
    omega
  have hbody : 4 + fields.length - 3 = (code :: fields).length := by
    rw [List.length_cons]
    omega
  simp only [le16, List.cons_append, List.nil_append, readTransaction, readWrite, ofLe16_le16, hlength, if_true]
  rw [if_neg (by omega), hbody, if_neg (lt_irrefl _), List.take_length]

theorem encodeFrame_reads {i : Instr} (hl : frameLength i ≤ 256) :
    readTransaction (encodeFrame i) = .frame (requestCode i) (fieldBytes i) :=
  readTransaction_frame (requestCode i) (fieldBytes i) hl

/-! ## The sample frame (12.5) -/

theorem toInt_ofLe16_ofInt {r : Int} (hr : -32768 ≤ r ∧ r ≤ 32767) :
    (ofLe16 ((BitVec.ofInt 16 r).setWidth 8) ((BitVec.ofInt 16 r >>> 8).setWidth 8)).toInt = r := by
  rw [ofLe16_le16, BitVec.toInt_ofInt]
  exact Int.bmod_eq_of_le (by omega) (by omega)

theorem toInt_ofInt_word {d : Int} (hd : -2147483648 ≤ d ∧ d ≤ 2147483647) : (BitVec.ofInt 32 d).toInt = d := by
  rw [BitVec.toInt_ofInt]
  exact Int.bmod_eq_of_le (by omega) (by omega)

/-- The bytes of the raw values of a sample frame. -/
def rawBytes (raws : List Int) : List Byte := raws.flatMap (fun r => le16 (BitVec.ofInt 16 r))

theorem rawBytes_length (raws : List Int) : (rawBytes raws).length = 2 * raws.length := by
  induction raws with
  | nil => rfl
  | cons r raws ih =>
    rw [rawBytes, List.flatMap_cons, List.length_append, List.length_cons]
    rw [rawBytes] at ih
    rw [ih]
    simp only [le16, List.length_cons, List.length_nil]
    omega

theorem parseRaws_rawBytes (raws : List Int) (hr : ∀ r ∈ raws, -32768 ≤ r ∧ r ≤ 32767) :
    parseRaws (rawBytes raws) = raws := by
  induction raws with
  | nil => rfl
  | cons r raws ih =>
    rw [List.forall_mem_cons] at hr
    have htail := ih hr.2
    simp only [rawBytes] at htail
    simp only [rawBytes, List.flatMap_cons, le16, List.cons_append, List.nil_append, parseRaws,
      toInt_ofLe16_ofInt hr.1]
    exact congrArg (r :: ·) htail

theorem sampleBody_length (f : Sample) : (sampleBody f).length = 9 + 2 * f.raws.length := by
  have hraws := rawBytes_length f.raws
  rw [rawBytes] at hraws
  simp only [sampleBody, le16, le32, List.length_append, List.length_cons, List.length_nil] at hraws ⊢
  omega

/-- A sample frame, byte by byte up to its raw values. -/
theorem encodeSample_eq (f : Sample) :
    encodeSample f =
      syncByte :: f.sequence :: (if f.encoderFault then 1 else 0) :: f.saturation.setWidth 8 ::
        (f.saturation >>> 8).setWidth 8 :: BitVec.ofNat 8 f.laneCount ::
        (BitVec.ofInt 32 f.displacement).setWidth 8 :: (BitVec.ofInt 32 f.displacement >>> 8).setWidth 8 ::
        (BitVec.ofInt 32 f.displacement >>> 16).setWidth 8 :: (BitVec.ofInt 32 f.displacement >>> 24).setWidth 8 ::
        (rawBytes f.raws ++ [crc (sampleBody f)]) := by
  rfl

theorem decodeSample_encodeSample {f : Sample} (hn : f.laneCount ≤ 16) (hlen : f.raws.length = f.laneCount)
    (hd : -2147483648 ≤ f.displacement ∧ f.displacement ≤ 2147483647)
    (hr : ∀ r ∈ f.raws, -32768 ≤ r ∧ r ≤ 32767) : decodeSample (encodeSample f) = some f := by
  have hcount : (BitVec.ofNat 8 f.laneCount).toNat = f.laneCount := by
    rw [BitVec.toNat_ofNat]
    omega
  have hbody : (sampleBody f).length = 9 + 2 * f.laneCount := by rw [sampleBody_length, hlen]
  have hraws : (rawBytes f.raws).length = 2 * f.laneCount := by rw [rawBytes_length, hlen]
  have hbytes : (encodeSample f).length = 11 + 2 * f.laneCount := by
    rw [encodeSample, List.length_append, List.length_append, hbody, List.length_singleton, List.length_singleton]
    omega
  have htail : (encodeSample f).tail.take (9 + 2 * f.laneCount) = sampleBody f := List.take_left' hbody
  have hlast : (rawBytes f.raws ++ [crc (sampleBody f)]).getLastD 0 = crc (sampleBody f) := by simp
  have htake : (rawBytes f.raws ++ [crc (sampleBody f)]).take (2 * f.laneCount) = rawBytes f.raws :=
    List.take_left' hraws
  have hfault : (if f.encoderFault then (1 : Byte) else 0).getLsbD 0 = f.encoderFault := by
    cases f.encoderFault <;> rfl
  rw [encodeSample_eq] at hbytes htail ⊢
  unfold decodeSample
  simp only [hcount, hbytes, htail, hlast, htake, hfault, ofLe16_le16, ofLe32_le32, toInt_ofInt_word hd,
    parseRaws_rawBytes f.raws hr]
  rw [if_neg (by simp [hn]), if_neg (by simp)]

end Sys2Proof

namespace Sys2Proof.Machine

/-- Settles O60, from the frames read back as written. -/
theorem framesRoundTrip : Obligations.FramesRoundTrip := by
  unfold Obligations.FramesRoundTrip
  refine ⟨fun i p hp hw => ⟨encodeFrame_reads ?_, parseRequest_fieldBytes hp⟩, fun f => decodeSample_encodeSample⟩
  simp only [wellFormed, frameFits, Bool.and_eq_true, decide_eq_true_eq] at hw
  obtain ⟨⟨-, hfits⟩, -⟩ := hw
  exact hfits

end Sys2Proof.Machine
end
